-- ==== Sys2Proof/Word.lean ====
section
/-!
DEFINITION. The bit vectors of the block: bytes, distances, cycle words and frame words
(00_scope R8: bit 0 is the least significant bit, every value is unsigned).
-/
namespace Sys2Proof

/-- One received byte, 8 bits (10_state R24). -/
abbrev Byte := BitVec 8

/-- A distance in centimetres, 16 bits unsigned (10_state R17, R25). -/
abbrev Dist := BitVec 16

/-- The cycle input word `I[10:0] = {rst, tick, rx_valid, rx_data[7:0]}` (30_encoding R43). -/
abbrev CycleWord := BitVec 11

/-- The frame word `W[31:0] = {b3, b2, b1, b0}` (30_encoding R46). -/
abbrev FrameWord := BitVec 32

/-- The presence bit on `pres_value`: 1 Present, 0 Absent (30_encoding R52). -/
abbrev PresBit := BitVec 1

end Sys2Proof
end

