-- ==== Sys2Proof/Config.lean ====
section
/-!
DEFINITION. The configuration record of a run, the host-side parameters, and the free values the spec leaves
open (00_scope R7, 10_state R17, 93_implementation_defined). The block's fixed parameters FRAME_LEN, SYNC0, SYNC1
stand in Decode.lean and GATE_MIN in Machine/Flags.lean, beside the definitions that read them.
-/
namespace Sys2Proof

/-- The configuration of a run (10_state R17) with the OPEN capacity of the receive buffer
(00_scope R7). It is constant along a run (10_state R23): no step writes it (log entry 2). -/
structure Cfg where
  /-- MAX_DISTANCE: clamp ceiling, presence threshold, end of the normalization range (R18). -/
  maxDistance : Dist
  /-- EPSILON: smallest accepted change (R19). -/
  epsilon : Dist
  /-- NORMALIZE: read by the consumer only (R21). -/
  normalize : Bool
  /-- PRESENCE_EN: whether the presence detector is built (R20). -/
  presenceEn : Bool
  /-- FIFO_DEPTH: capacity of the receive buffer in bytes, at least 5 (00_scope R7, 10_state R24). -/
  fifoDepth : Nat
  deriving DecidableEq, Repr

/-- The configuration if the host sets none (10_state R17). DESIGN CHOICE, unsafe (log entry 3): the spec leaves
FIFO_DEPTH open; 16 is the depth of its test vectors (95_test_vectors). -/
def Cfg.default : Cfg :=
  { maxDistance := 200, epsilon := 2, normalize := false, presenceEn := true, fifoDepth := 16 }

namespace Config

/-- BAUD: the serial line rate, host side; no rule of the block reads it (00_scope R7, 60_exceptions R97). -/
def baud : Nat := 115200

/-- POLL_INTERVAL: the time between TICK events, host side, OPEN; no rule of the block reads it
(00_scope R7, 60_exceptions R96). -/
opaque pollInterval : Nat

/-- What `dist_data` holds after a step that emits no `Accepted` event: unspecified (10_state R28,
93_implementation_defined I9), a free value drawn with the counter `draws` (log entry 4, safe). -/
opaque freeDistData : Nat → Dist

/-- What `pres_value` holds after a step that emits no `Presence` event: unspecified (10_state R28,
93_implementation_defined I9), a free value drawn with the counter `draws` (log entry 4, safe). -/
opaque freePresValue : Nat → PresBit

/-- NORM_ROUND: the consumer's representation of a normalized value, OPEN (42_distance_filter R78;
log entry 12, safe). -/
opaque normRound : Rat → Rat

end Config

end Sys2Proof
end

