-- ==== Sys2Proof/Machine/Operands.lean ====
section
/-!
DEFINITION. The values the data path computes: the assembled distance, the clamp, the exact difference.
-/
namespace Sys2Proof.Machine

open Sys2Proof

/-- `RawDistance = {b3, b2}`, low byte first on the line (30_encoding R48, 41_frame_parser R64). -/
def rawDistance (lo hi : Byte) : Dist := hi ++ lo

/-- `ClampedDistance = min(raw, MAX_DISTANCE)`, unsigned (41_frame_parser R65). -/
def clampDistance (c : Cfg) (raw : Dist) : Dist :=
  if raw ≤ c.maxDistance then raw else c.maxDistance

/-- `delta = |d - prev|`, the exact absolute difference without wrap-around (42_distance_filter R69). -/
def delta (d prev : Dist) : Nat :=
  if prev ≤ d then d.toNat - prev.toNat else prev.toNat - d.toNat

end Sys2Proof.Machine
end

