-- ==== Sys2Proof/Syntax.lean ====
section
/-!
DEFINITION. The events of the block, one constructor per row of spec/opcode_table.json, and the two
encoded formats they stand in (30_encoding R43 to R47).
-/
namespace Sys2Proof

/-- The two encoded inputs of the block (30_encoding): the 11-bit cycle word and the 4-byte frame. -/
inductive Format where
  /-- CYCLE: the cycle input word (R43). -/
  | cycle
  /-- FRAME32: a frame written as one word (R46). -/
  | frame32
  deriving DecidableEq, Repr

/-- One row of the opcode table each. Bits a row ignores are no operand (30_encoding R44; log entry 15). -/
inductive Instr where
  /-- RESET (70_reset_and_hazards R100). -/
  | reset
  /-- IDLE (40_input_events R55). -/
  | idle
  /-- RX_BYTE(b) (40_input_events R54). -/
  | rxByte (b : Byte)
  /-- TICK (41_frame_parser R58). -/
  | tick
  /-- TICK_RX(b) (40_input_events R56). -/
  | tickRx (b : Byte)
  /-- VALID_FRAME with DIST_LO and DIST_HI (30_encoding R47, 41_frame_parser R64). -/
  | validFrame (distLo distHi : Byte)
  /-- INVALID_FRAME with its four bytes in arrival order (30_encoding R47, 41_frame_parser R63). -/
  | invalidFrame (b0 b1 b2 b3 : Byte)
  deriving DecidableEq, Repr

/-- The format of an event's row in the opcode table. -/
def Instr.format : Instr → Format
  | .reset => .cycle
  | .idle => .cycle
  | .rxByte _ => .cycle
  | .tick => .cycle
  | .tickRx _ => .cycle
  | .validFrame _ _ => .frame32
  | .invalidFrame _ _ _ _ => .frame32

end Sys2Proof
end

