-- ==== Sys2Proof/WellFormed.lean ====
section
/-!
DEFINITION. What makes an event and a configuration well formed.
-/
namespace Sys2Proof

/-- Every operand is legal (30_encoding R44, R49) but one: an INVALID_FRAME does not carry the sync
bytes, since that frame word is the row VALID_FRAME (30_encoding R47). -/
def Instr.wellFormed : Instr → Bool
  | .reset => true
  | .idle => true
  | .rxByte _ => true
  | .tick => true
  | .tickRx _ => true
  | .validFrame _ _ => true
  | .invalidFrame b0 b1 _ _ => !(b0 == 0x59 && b1 == 0x59)

/-- Every field value is legal (10_state R17) but one: FIFO_DEPTH is at least 5
(70_reset_and_hazards R108). -/
def Cfg.wellFormed (c : Cfg) : Bool :=
  decide (5 ≤ c.fifoDepth)

end Sys2Proof
end

