-- ==== Sys2Proof/Decode.lean ====
section
/-!
DEFINITION. The decoder of the two formats (30_encoding R43 to R47), total on any bytes, and after it the
encoder and the event notation (30_encoding R53), written from the same tables.
-/
namespace Sys2Proof

/-! ### The cycle input word (30_encoding R43, R44) -/

/-- `I[10]`, the port `rst`. -/
def rstBit (w : CycleWord) : Bool := w.getLsbD 10

/-- `I[9]`, the port `tick`. -/
def tickBit (w : CycleWord) : Bool := w.getLsbD 9

/-- `I[8]`, the port `rx_valid`. -/
def rxValidBit (w : CycleWord) : Bool := w.getLsbD 8

/-- `I[7:0]`, the port `rx_data`. -/
def rxData (w : CycleWord) : Byte := w.extractLsb' 0 8

/-- The event of a cycle word, first match wins (30_encoding R44). Total: each of the 2048 words is one row. -/
def decodeCycle (w : CycleWord) : Instr :=
  if rstBit w then .reset
  else
    match tickBit w, rxValidBit w with
    | false, false => .idle
    | false, true => .rxByte (rxData w)
    | true, false => .tick
    | true, true => .tickRx (rxData w)

/-! ### The frame (30_encoding R45 to R47) -/

/-- FRAME_LEN: bytes per frame (00_scope R7). -/
def Config.frameLen : Nat := 4

/-- SYNC0: the sync byte at frame position 0 (00_scope R7, 30_encoding R45). -/
def Config.sync0 : Byte := 0x59

/-- SYNC1: the sync byte at frame position 1 (00_scope R7, 30_encoding R45). -/
def Config.sync1 : Byte := 0x59

/-- A frame's first two bytes are the sync bytes, each compared in full (30_encoding R47). -/
def syncMatches (b0 b1 : Byte) : Bool :=
  b0 == Config.sync0 && b1 == Config.sync1

/-- The frame's four bytes, b0 first in arrival order, decode to one of the two frame rows
(30_encoding R47). Total: there is no illegal frame (R49, R50). -/
def decodeFrame (b0 b1 b2 b3 : Byte) : Instr :=
  if syncMatches b0 b1 then .validFrame b2 b3 else .invalidFrame b0 b1 b2 b3

/-- `W[31:0] = {b3, b2, b1, b0}` (30_encoding R46). -/
def frameWord (b0 b1 b2 b3 : Byte) : FrameWord :=
  b3 ++ b2 ++ b1 ++ b0

/-- A frame written as one word, decoded (30_encoding R46, R47). -/
def decodeFrameWord (W : FrameWord) : Instr :=
  decodeFrame (W.extractLsb' 0 8) (W.extractLsb' 8 8) (W.extractLsb' 16 8) (W.extractLsb' 24 8)

/-! ### Any bytes -/

/-- Why bytes hold no instruction of a format. -/
inductive DecodeError where
  /-- Fewer bytes than the format has. -/
  | tooFewBytes
  /-- Two bytes with a bit above bit 10 set: a cycle word has 11 bits (30_encoding R43). -/
  | notACycleWord
  deriving DecidableEq, Repr

/-- Decode from a list of bytes, the lowest first. A frame is its four bytes in arrival order. DESIGN CHOICE
(log entry 7): a cycle word, which the block samples from parallel ports, is written as two bytes, the low
byte first, with bits 15 to 11 zero. -/
def decodeBytes : Format → List Byte → Except DecodeError (Instr × List Byte)
  | .cycle, lo :: hi :: rest =>
    if hi.toNat < 8 then .ok (decodeCycle (hi.extractLsb' 0 3 ++ lo), rest)
    else .error .notACycleWord
  | .frame32, b0 :: b1 :: b2 :: b3 :: rest => .ok (decodeFrame b0 b1 b2 b3, rest)
  | .cycle, _ => .error .tooFewBytes
  | .frame32, _ => .error .tooFewBytes

/-- The bytes of a number, the least significant first. -/
def littleEndian : Nat → Nat → List Byte
  | 0, _ => []
  | n + 1, w => BitVec.ofNat 8 w :: littleEndian n (w / 256)

/-- The format of an instruction whose bits, numbered as spec/opcode_table.json numbers them, are `w` in
`nbits` bits. DESIGN CHOICE (log entry 7): a word of at most 16 bits is a cycle word when it has at most 11
significant bits; any other word is a frame, its bits above `nbits` zero. -/
def tableFormat (nbits w : Nat) : Format :=
  if nbits ≤ 16 ∧ w < 2048 then .cycle else .frame32

/-- Bytes of a format: a cycle word in two (log entry 7), a frame in four (30_encoding R45). -/
def Format.byteCount : Format → Nat
  | .cycle => 2
  | .frame32 => Config.frameLen

/-- The instruction the decoder reads from a table word: the word laid out in bytes and decoded. -/
def decodeTableWord (nbits w : Nat) : Option Instr :=
  match decodeBytes (tableFormat nbits w) (littleEndian (tableFormat nbits w).byteCount w) with
  | .ok (i, _) => some i
  | .error _ => none

/-! ### The encoder -/

/-- `{rst, tick, rx_valid, rx_data}` (30_encoding R43). -/
def cycleWord (rst tick rxValid : Bool) (data : Byte) : CycleWord :=
  BitVec.ofBool rst ++ BitVec.ofBool tick ++ BitVec.ofBool rxValid ++ data

/-- The word of an event in the numbering of the opcode table, a cycle word zero-extended (30_encoding R44,
R46, R47, R53). Bits a row ignores are written as zero, as in the cycle words of R53 (log entry 15). -/
def encodeWord : Instr → FrameWord
  | .reset => (cycleWord true false false 0).setWidth 32
  | .idle => (cycleWord false false false 0).setWidth 32
  | .rxByte b => (cycleWord false false true b).setWidth 32
  | .tick => (cycleWord false true false 0).setWidth 32
  | .tickRx b => (cycleWord false true true b).setWidth 32
  | .validFrame lo hi => frameWord Config.sync0 Config.sync1 lo hi
  | .invalidFrame b0 b1 b2 b3 => frameWord b0 b1 b2 b3

/-- The bytes of an event: its word, least significant byte first, in its format's bytes. -/
def encode (i : Instr) : List Byte :=
  littleEndian i.format.byteCount (encodeWord i).toNat

/-- The cycle word of an event of the CYCLE format; a frame row has none. -/
def encodeCycle (i : Instr) : Option CycleWord :=
  match i.format with
  | .cycle => some ((encodeWord i).extractLsb' 0 11)
  | .frame32 => none

/-- One row of spec/opcode_table.json: a word is the row's when `word &&& mask = pattern`, a row of smaller
priority being tried first (30_encoding R44, R47). -/
structure TableRow where
  pattern : FrameWord
  mask : FrameWord
  priority : Nat
  deriving DecidableEq, Repr

/-- The row of an event in spec/opcode_table.json. -/
def Instr.row : Instr → TableRow
  | .reset => { pattern := 0x400, mask := 0x400, priority := 1 }
  | .idle => { pattern := 0x000, mask := 0x700, priority := 2 }
  | .rxByte _ => { pattern := 0x100, mask := 0x700, priority := 2 }
  | .tick => { pattern := 0x200, mask := 0x700, priority := 2 }
  | .tickRx _ => { pattern := 0x300, mask := 0x700, priority := 2 }
  | .validFrame _ _ => { pattern := 0x00005959, mask := 0x0000FFFF, priority := 1 }
  | .invalidFrame _ _ _ _ => { pattern := 0x00000000, mask := 0x00000000, priority := 2 }

/-- A word matches a row (30_encoding R47: match/mask form). -/
def TableRow.covers (r : TableRow) (w : FrameWord) : Bool :=
  w &&& r.mask == r.pattern

/-! ### The event notation (30_encoding R53) -/

/-- `RX b1, b2, ..., bn`. -/
def rxEvents (bs : List Byte) : List Instr := bs.map .rxByte

/-- The four bytes of the pseudo-event `FRAME d`: `0x59, 0x59, d[7:0], d[15:8]`. -/
def frameBytesOf (d : Dist) : List Byte :=
  [0x59, 0x59, d.extractLsb' 0 8, d.extractLsb' 8 8]

/-- `FRAME d`. -/
def frameEvents (d : Dist) : List Instr := rxEvents (frameBytesOf d)

/-- `SAMPLE d`: `FRAME d` ; `RX 0x00` ; `TICK`. -/
def sampleEvents (d : Dist) : List Instr := frameEvents d ++ [.rxByte 0x00, .tick]

/-- `BADFRAME b0, b1, b2, b3`. -/
def badFrameEvents (b0 b1 b2 b3 : Byte) : List Instr := rxEvents [b0, b1, b2, b3]

/-- The encoded program of an event list: one cycle word per event. -/
def assemble (evs : List Instr) : List CycleWord := evs.filterMap encodeCycle

end Sys2Proof
end

