-- ==== Sys2Proof/Machine/State.lean ====
section
/-!
DEFINITION. The state of the block, its outputs, the (empty) type of faults, and the state after reset.
-/
namespace Sys2Proof.Machine

open Sys2Proof

/-- The presence detector's state (10_state R26): three values and no fourth (R27). -/
inductive Edge where
  /-- No accepted value yet: the initial sentinel. -/
  | unknown
  /-- The last emitted presence was false. -/
  | absent
  /-- The last emitted presence was true. -/
  | present
  deriving DecidableEq, Repr

/-- An output event of a step (00_scope R10, 10_state R28). -/
inductive OutEvent where
  /-- `Accepted(d)`: the accepted ClampedDistance. -/
  | accepted (d : Dist)
  /-- `Presence(p)`: 1 Present, 0 Absent. -/
  | presence (p : PresBit)
  deriving DecidableEq, Repr

/-- Why a step faults: never. The block raises no exception and no event on any state faults, traps, halts or
sticks (60_exceptions R87, R94), so the type has no constructor and nothing raises one. -/
inductive Fault where
  deriving DecidableEq, Repr

/-- Why an event has no meaning in the model. -/
inductive Refusal where
  /-- The event of that mnemonic has no meaning yet, raised by an arm of exec only; safe, since the model stops
  where the block goes on. No arm raises it now. -/
  | notModelled (mnemonic : String)
  deriving DecidableEq, Repr

/-- The whole state: the block's `(buf, prev, edge)` (10_state R13), its registered output ports (R22, R28), the
configuration of the run (R17, R23), and two fields of the model's own (`input`, `draws`). -/
structure State where
  /-- The configuration, constant along a run (10_state R23; log entry 2). -/
  cfg : Cfg
  /-- The receive buffer, oldest byte first (10_state R24). -/
  buf : List Byte
  /-- prev_distance, the last accepted ClampedDistance (10_state R25). -/
  prev : Dist
  /-- The presence detector's state (10_state R26); with PRESENCE_EN = 0 the block has none and the model
  never reads or writes it (log entry 9). -/
  edge : Edge
  /-- The port `dist_valid` (10_state R28). -/
  distValid : Bool
  /-- The port `dist_data` (10_state R28); a free value while `dist_valid` is 0 (log entry 4). -/
  distData : Dist
  /-- The port `pres_valid` (10_state R28). -/
  presValid : Bool
  /-- The port `pres_value` (10_state R28); a free value while `pres_valid` is 0 (log entry 4). -/
  presValue : PresBit
  /-- The model's own: the cycle words the host presents at the coming rising edges, the next one first; past
  its end every input is low (log entry 1). -/
  input : List CycleWord
  /-- The model's own: how many free values were drawn (log entry 4). -/
  draws : Nat
  deriving DecidableEq, Repr

/-- The machine right after RESET (10_state R30) with the default configuration (R17). The data ports'
values, unspecified there, are zero: DESIGN CHOICE, unsafe (log entry 5). No cycle word is pending
(log entry 1). -/
def State.reset : State :=
  { cfg := Cfg.default
    buf := []
    prev := 0
    edge := .unknown
    distValid := false
    distData := 0
    presValid := false
    presValue := 0
    input := []
    draws := 0 }

end Sys2Proof.Machine
end

