-- ==== Sys2Proof/Machine/Ops.lean ====
section
/-!
DEFINITION. The named operations over the state: the receive buffer's primitives (00_scope R9), the output
ports (10_state R28), the code of the presence state (10_state R27), and the cycle input.
The spec has no exception entry and no return from one (60_exceptions R87, R94), so none stands here.
-/
namespace Sys2Proof.Machine

open Sys2Proof

/-! ### The receive buffer (00_scope R9, 10_state R24) -/

/-- `Count()`: the number of buffered bytes. -/
def State.count (s : State) : Nat := s.buf.length

/-- `Enqueue(b)`: append at the end. -/
def State.enqueue (b : Byte) (s : State) : State := { s with buf := s.buf ++ [b] }

/-- `PopFront()`: the oldest byte and the state without it; nothing on an empty buffer, which no rule pops. -/
def State.popFront (s : State) : Option (Byte × State) :=
  match s.buf with
  | [] => none
  | b :: rest => some (b, { s with buf := rest })

/-- `Flush()`: make the buffer empty. -/
def State.flush (s : State) : State := { s with buf := [] }

/-- Receive one byte: append it, or discard it when the buffer is full (40_input_events R54, 60_exceptions
R90). -/
def State.receive (b : Byte) (s : State) : State :=
  if s.count < s.cfg.fifoDepth then s.enqueue b else s

/-- The four bytes a decoding TICK removes from the buffer, in order, and the state without them
(41_frame_parser R61). -/
def State.capture (s : State) : Option ((Byte × Byte × Byte × Byte) × State) := do
  let (b0, s) ← s.popFront
  let (b1, s) ← s.popFront
  let (b2, s) ← s.popFront
  let (b3, s) ← s.popFront
  return ((b0, b1, b2, b3), s)

/-! ### The output ports (10_state R22, R28) -/

/-- The ports of a cycle in which nothing is emitted: the valid bits 0, the data unspecified, that is free
values drawn with the counter (10_state R28; log entry 4). Every event begins with this. -/
def State.clearOutputs (s : State) : State :=
  { s with
    distValid := false
    distData := Config.freeDistData s.draws
    presValid := false
    presValue := Config.freePresValue s.draws
    draws := s.draws + 1 }

/-- `emit Accepted(d)` (42_distance_filter R72). -/
def State.emitAccepted (d : Dist) (s : State) : State :=
  { s with distValid := true, distData := d }

/-- `emit Presence(p)` (43_presence_detector R81). -/
def State.emitPresence (p : PresBit) (s : State) : State :=
  { s with presValid := true, presValue := p }

/-- The output events of the step that led to this state, in emission order, Accepted before Presence
(42_distance_filter R72): what the ports show in this cycle (10_state R28). -/
def State.outs (s : State) : List OutEvent :=
  (if s.distValid then [.accepted s.distData] else []) ++
    (if s.presValid then [.presence s.presValue] else [])

/-! ### The presence state's names and code (10_state R27, 30_encoding R52) -/

/-- The presence bit as a detector state: 1 Present, 0 Absent (43_presence_detector R81). -/
def Edge.ofBit (p : PresBit) : Edge := if p = 1 then .present else .absent

/-- The 2-bit RTL code of the presence state (10_state R27). -/
def Edge.code : Edge → BitVec 2
  | .unknown => 0b00
  | .absent => 0b01
  | .present => 0b10

/-- The presence state an RTL code stands for; the unreachable code 0b11 is treated as Unknown
(10_state R27). -/
def Edge.ofCode (c : BitVec 2) : Edge :=
  if c = 0b01 then .absent else if c = 0b10 then .present else .unknown

/-! ### The cycle input (30_encoding R43) -/

/-- The cycle word of this rising edge: the next word the host presents, or all inputs low when it presents
none. DESIGN CHOICE, safe (log entry 1). -/
def State.nextWord (s : State) : CycleWord := s.input.headD 0

/-- The state once this rising edge's word is taken from the host's list. -/
def State.takeWord (s : State) : State := { s with input := s.input.tail }

end Sys2Proof.Machine
end

