-- ==== Sys2Proof/Machine/Flags.lean ====
section
/-!
DEFINITION. The decisions of a TICK. The block stores no status flag (10_state R16): each of these is
computed and used within one step.
-/
namespace Sys2Proof.Machine

open Sys2Proof

/-- GATE_MIN: the smallest buffer count at which a TICK decodes (00_scope R7, 41_frame_parser R59). -/
def gateMin : Nat := 5

/-- The gate: a TICK decodes iff `Count() > 4` (41_frame_parser R59). -/
def gateMet (s : State) : Bool := decide (gateMin ≤ s.count)

/-- The filter rejects iff `delta < EPSILON`, strictly (42_distance_filter R70). -/
def filterRejects (c : Cfg) (d prev : Dist) : Bool := decide (delta d prev < c.epsilon.toNat)

/-- `is_there = d < MAX_DISTANCE`, strict and unsigned, as the presence bit (43_presence_detector R79). -/
def isThere (c : Cfg) (d : Dist) : PresBit := BitVec.ofBool (decide (d < c.maxDistance))

/-- A presence step fires iff the detector's state is Unknown or differs from the new one
(43_presence_detector R80, R82). -/
def isTransition (old new : Edge) : Bool := old == .unknown || old != new

end Sys2Proof.Machine
end

