-- ==== Sys2Proof/Machine/Filter.lean ====
section
/-!
DEFINITION. The filter stage of a TICK and the presence step it runs (42_distance_filter,
43_presence_detector).
-/
namespace Sys2Proof.Machine

open Sys2Proof

/-- `PRESENCE(d)` (43_presence_detector R80): on a transition, write the new state and emit it. -/
def presenceStep (d : Dist) (s : State) : State :=
  if isTransition s.edge (Edge.ofBit (isThere s.cfg d)) then
    State.emitPresence (isThere s.cfg d) { s with edge := Edge.ofBit (isThere s.cfg d) }
  else s

/-- An accept (42_distance_filter R71, R72): write `prev`, emit Accepted, then run the presence detector if it is
built. -/
def acceptDistance (d : Dist) (s : State) : State :=
  if s.cfg.presenceEn then presenceStep d (State.emitAccepted d { s with prev := d })
  else State.emitAccepted d { s with prev := d }

/-- `FILTER(d)` (42_distance_filter R68): reject a change below EPSILON, accept any other. -/
def filterDistance (d : Dist) (s : State) : State :=
  if filterRejects s.cfg d s.prev then s else acceptDistance d s

end Sys2Proof.Machine
end

