-- ==== Sys2Proof/Machine/Frame.lean ====
section
/-!
DEFINITION. The two frame rows. A frame is decoded only inside a TICK whose gate is met; the meaning of a frame
row is what is left of that TICK once the frame's bytes are known (log entry 6): the flush of the buffer
(41_frame_parser R62) and the frame's effect (R63 to R65).
-/
namespace Sys2Proof.Machine

open Sys2Proof

/-- A valid frame's effect: extract, clamp, filter (41_frame_parser R64, R65; 42_distance_filter R68). -/
def validFrameEffect (lo hi : Byte) (s : State) : State :=
  filterDistance (clampDistance s.cfg (rawDistance lo hi)) s

/-- An invalid frame's effect beyond the flush: none, it is "no value" (41_frame_parser R63, 60_exceptions
R88). -/
def invalidFrameEffect (s : State) : State := s

/-- What a captured frame does, by the sync check (41_frame_parser R63, 30_encoding R47). -/
def frameEffect (b0 b1 b2 b3 : Byte) (s : State) : State :=
  if syncMatches b0 b1 then validFrameEffect b2 b3 s else invalidFrameEffect s

/-- VALID_FRAME (41_frame_parser R64, R65). -/
def execValidFrame (lo hi : Byte) (s : State) : Host.Outcome State Fault Refusal :=
  .next (validFrameEffect lo hi s.clearOutputs.flush)

/-- INVALID_FRAME (41_frame_parser R63): the buffer is consumed, nothing else changes and nothing is
emitted, whatever the four bytes are (60_exceptions R87). -/
def execInvalidFrame (_b0 _b1 _b2 _b3 : Byte) (s : State) : Host.Outcome State Fault Refusal :=
  .next (invalidFrameEffect s.clearOutputs.flush)

end Sys2Proof.Machine
end

