-- ==== Sys2Proof/Machine/Cycle.lean ====
section
/-!
DEFINITION. The five events of the cycle input word (30_encoding R44).
-/
namespace Sys2Proof.Machine

open Sys2Proof

/-- A whole TICK on a state whose ports are already cleared (41_frame_parser R58): nothing if the gate is not met
(R60), else capture, flush and the captured frame's effect (R61, R62, R63). -/
def tickEffect (s : State) : State :=
  if gateMet s then
    match s.capture with
    | some ((b0, b1, b2, b3), s') => frameEffect b0 b1 b2 b3 s'.flush
    | none => s
  else s

/-- RESET's writes (70_reset_and_hazards R100): empty buffer, `prev` 0, and `edge` Unknown if the detector is
built. -/
def resetEffect (s : State) : State :=
  { s.flush with prev := 0, edge := if s.cfg.presenceEn then .unknown else s.edge }

/-- RESET (70_reset_and_hazards R100, R101): nothing is emitted and any tick or byte of the cycle is lost. -/
def execReset (s : State) : Host.Outcome State Fault Refusal :=
  .next (resetEffect s.clearOutputs)

/-- IDLE (40_input_events R55): no state change, no output. -/
def execIdle (s : State) : Host.Outcome State Fault Refusal :=
  .next s.clearOutputs

/-- RX_BYTE(b) (40_input_events R54). -/
def execRxByte (b : Byte) (s : State) : Host.Outcome State Fault Refusal :=
  .next (s.clearOutputs.receive b)

/-- TICK (41_frame_parser R58). -/
def execTick (s : State) : Host.Outcome State Fault Refusal :=
  .next (tickEffect s.clearOutputs)

/-- TICK_RX(b) (40_input_events R56): the TICK first, then the byte, with the TICK's outputs. -/
def execTickRx (b : Byte) (s : State) : Host.Outcome State Fault Refusal :=
  .next ((tickEffect s.clearOutputs).receive b)

end Sys2Proof.Machine
end

