-- ==== Sys2Proof/Machine/Dispatch.lean ====
section
/-!
DEFINITION. The meaning of every event, by its row of the opcode table.
-/
namespace Sys2Proof.Machine

open Sys2Proof

/-- One arm per row of spec/opcode_table.json. -/
def exec (i : Instr) (s : State) : Host.Outcome State Fault Refusal :=
  match i with
  | .reset => Sys2Proof.Machine.execReset s
  | .idle => Sys2Proof.Machine.execIdle s
  | .rxByte b => Sys2Proof.Machine.execRxByte b s
  | .tick => Sys2Proof.Machine.execTick s
  | .tickRx b => Sys2Proof.Machine.execTickRx b s
  | .validFrame lo hi => Sys2Proof.Machine.execValidFrame lo hi s
  | .invalidFrame b0 b1 b2 b3 => Sys2Proof.Machine.execInvalidFrame b0 b1 b2 b3 s

end Sys2Proof.Machine
end

