-- ==== Sys2Proof/Machine/Step.lean ====
section
/-!
DEFINITION. One rising edge of the clock, and how the host places an instruction before it.
-/
namespace Sys2Proof.Machine

open Sys2Proof

/-- One clock cycle (30_encoding R43, R44): take the cycle word of this edge and run the event it decodes to. -/
def step (s : State) : Host.Outcome State Fault Refusal :=
  exec (decodeCycle s.nextWord) s.takeWord

/-- The state with an instruction, given by its table word, where the next step runs it. A cycle word is
presented at the next edge. A frame is put at the front of an otherwise empty buffer with the fifth byte the
gate needs (41_frame_parser R59), and a TICK, which decodes it, is presented (log entry 8). -/
def State.withFetchWord (s : State) (nbits w : Nat) : State :=
  match tableFormat nbits w with
  | .cycle => { s with input := BitVec.ofNat 11 w :: s.input }
  | .frame32 =>
    { s with
      input := cycleWord false true false 0 :: s.input
      buf := littleEndian Config.frameLen w ++ [0] }

end Sys2Proof.Machine
end

