-- ==== Sys2Proof/Machine/Normalize.lean ====
section
/-!
DEFINITION. The output value the consumer forms from an accepted distance (42_distance_filter R73 to R78): a
reference function outside the block's data path, over exact rationals (log entry 12).
-/
namespace Sys2Proof.Machine

open Sys2Proof

/-- The degenerate-range guard: `|inmin - inmax| < 1e-4` (42_distance_filter R76). -/
def rangeDegenerate (inmin inmax : Rat) : Bool := decide (|inmin - inmax| < 1 / 10000)

/-- The affine map that sends inmin to outmin and inmax to outmax, before the output clamp
(42_distance_filter R74). -/
def affineMap (x inmin inmax outmin outmax : Rat) : Rat :=
  outmin + (x - inmin) * (outmax - outmin) / (inmax - inmin)

/-- The output clamp, whose bounds swap for an inverted range (42_distance_filter R75). -/
def clampToRange (y outmin outmax : Rat) : Rat :=
  if outmin < outmax then min (max y outmin) outmax else min (max y outmax) outmin

/-- `map_value` (42_distance_filter R74 to R76): the guard first, then the formula, then the clamp. -/
def mapValue (x inmin inmax outmin outmax : Rat) : Rat :=
  if rangeDegenerate inmin inmax then outmin
  else clampToRange (affineMap x inmin inmax outmin outmax) outmin outmax

/-- The value the consumer passes on (42_distance_filter R73): the integer distance, or the normalized value. -/
inductive OutputValue where
  /-- NORMALIZE = 0: the accepted distance, in centimetres. -/
  | distance (d : Dist)
  /-- NORMALIZE = 1: the exact normalized value. -/
  | normalized (q : Rat)
  deriving DecidableEq, Repr

/-- `map_value(d, 0, MAX_DISTANCE, 1, 0)` (42_distance_filter R77). -/
def normalizedValue (c : Cfg) (d : Dist) : Rat := mapValue d.toNat 0 c.maxDistance.toNat 1 0

/-- OutputValue of an accepted distance (42_distance_filter R73). -/
def outputValue (c : Cfg) (d : Dist) : OutputValue :=
  if c.normalize then .normalized (normalizedValue c d) else .distance d

/-- The number the consumer holds for an output value: the integer itself, or the normalized value under the OPEN
NORM_ROUND (42_distance_filter R78). -/
def OutputValue.represented : OutputValue → Rat
  | .distance d => d.toNat
  | .normalized q => Config.normRound q

end Sys2Proof.Machine
end

