-- ==== Sys2Proof/Safety.lean ====
section
/-!
DEFINITION. The terms claims are stated in: the invariant of the block, runs with their outputs, and the
transaction-level machine of 00_scope R10 written straight from the spec's pseudocode, which the cycle-level
machine of Machine/ is to agree with.
-/
namespace Sys2Proof.Safety

open Sys2Proof Sys2Proof.Machine

/-! ### The invariant -/

/-- The detector's state for an accepted distance: Present iff it is below MAX_DISTANCE
(43_presence_detector R79). -/
def edgeOf (c : Cfg) (d : Dist) : Edge := if d < c.maxDistance then .present else .absent

/-- What holds of every state a run reaches. -/
structure Inv (s : State) : Prop where
  /-- FIFO_DEPTH >= 5 (70_reset_and_hazards R108). -/
  depth : 5 ≤ s.cfg.fifoDepth
  /-- `buf` holds 0 to FIFO_DEPTH bytes (10_state R13). -/
  bufFits : s.buf.length ≤ s.cfg.fifoDepth
  /-- `prev` is at most MAX_DISTANCE (10_state R25). -/
  prevClamped : s.prev ≤ s.cfg.maxDistance
  /-- Without a detector there is no presence state and no Presence event (10_state R20). -/
  noDetector : s.cfg.presenceEn = false → s.edge = .unknown ∧ s.presValid = false
  /-- With a detector, either nothing was accepted yet or its state is that of the last accepted distance
  (10_state R26, 43_presence_detector R80). -/
  detector : s.cfg.presenceEn = true → (s.edge = .unknown ∧ s.prev = 0) ∨ s.edge = edgeOf s.cfg s.prev
  /-- An Accepted event carries the last accepted distance (10_state R29). -/
  acceptedIsPrev : s.distValid = true → s.distData = s.prev
  /-- A Presence event comes with an Accepted event and carries the detector's state (42_distance_filter R72,
  43_presence_detector R81). -/
  presenceIsEdge : s.presValid = true → s.distValid = true ∧ s.edge = Edge.ofBit s.presValue

/-! ### The transaction-level machine (00_scope R10) -/

/-- The block's state and nothing else: `(buf, prev, edge)` (10_state R13). -/
structure Block where
  buf : List Byte
  prev : Dist
  edge : Edge
  deriving DecidableEq, Repr

/-- The block's part of a state. -/
def blockOf (s : State) : Block := { buf := s.buf, prev := s.prev, edge := s.edge }

/-- The input events (00_scope R6). -/
inductive Event where
  | reset
  | idle
  | rxByte (b : Byte)
  | tick
  deriving DecidableEq, Repr

/-- `PRESENCE(d)` with d in exact arithmetic (43_presence_detector R80): the new state and the events. -/
def txnPresence (c : Cfg) (edge : Edge) (d : Nat) : Edge × List OutEvent :=
  let new : Edge := if d < c.maxDistance.toNat then .present else .absent
  let p : PresBit := if d < c.maxDistance.toNat then 1 else 0
  if edge = .unknown ∨ edge ≠ new then (new, [.presence p]) else (edge, [])

/-- `FILTER(d)` with d in exact arithmetic (42_distance_filter R68). -/
def txnFilter (c : Cfg) (st : Block) (d : Nat) : Block × List OutEvent :=
  if ((d : Int) - st.prev.toNat).natAbs < c.epsilon.toNat then (st, [])
  else if c.presenceEn then
    ({ st with prev := BitVec.ofNat 16 d, edge := (txnPresence c st.edge d).1 },
      .accepted (BitVec.ofNat 16 d) :: (txnPresence c st.edge d).2)
  else ({ st with prev := BitVec.ofNat 16 d }, [.accepted (BitVec.ofNat 16 d)])

/-- `step(cfg, st, ev) = (st', outs)` (00_scope R10): RESET (70_reset_and_hazards R100), IDLE (40_input_events
R55), RX_BYTE (R54), TICK (41_frame_parser R58). -/
def txnStep (c : Cfg) (st : Block) : Event → Block × List OutEvent
  | .reset => ({ buf := [], prev := 0, edge := if c.presenceEn then .unknown else st.edge }, [])
  | .idle => (st, [])
  | .rxByte b => if st.buf.length < c.fifoDepth then ({ st with buf := st.buf ++ [b] }, []) else (st, [])
  | .tick =>
    match st.buf with
    | b0 :: b1 :: b2 :: b3 :: _ :: _ =>
      if b0 = 0x59 ∧ b1 = 0x59 then
        txnFilter c { st with buf := [] } (min (b2.toNat + b3.toNat * 256) c.maxDistance.toNat)
      else ({ st with buf := [] }, [])
    | _ => (st, [])

/-- A run: the left fold of the step, concatenating outputs (00_scope R10). -/
def txnRun (c : Cfg) : Block → List Event → Block × List OutEvent
  | st, [] => (st, [])
  | st, ev :: evs =>
    ((txnRun c (txnStep c st ev).1 evs).1, (txnStep c st ev).2 ++ (txnRun c (txnStep c st ev).1 evs).2)

/-- The event sequence of a cycle word (30_encoding R44). -/
def eventsOf (w : CycleWord) : List Event :=
  match w.getLsbD 10, w.getLsbD 9, w.getLsbD 8 with
  | true, _, _ => [.reset]
  | false, false, false => []
  | false, false, true => [.rxByte (w.setWidth 8)]
  | false, true, false => [.tick]
  | false, true, true => [.tick, .rxByte (w.setWidth 8)]

/-! ### Runs of the cycle-level machine -/

/-- The words of the next `n` rising edges: the host's list, then all inputs low (log entry 1). -/
def wordsAhead : Nat → List CycleWord → List CycleWord
  | 0, _ => []
  | n + 1, input => input.headD 0 :: wordsAhead n input.tail

/-- `n` steps with the outputs of each, concatenated in order (00_scope R10). -/
def runOuts : Nat → State → Host.Outcome (State × List OutEvent) Fault Refusal
  | 0, s => .next (s, [])
  | n + 1, s =>
    match step s with
    | .next t =>
      match runOuts n t with
      | .next (u, os) => .next (u, t.outs ++ os)
      | .fault r => .fault r
      | .refused r => .refused r
    | .fault r => .fault r
    | .refused r => .refused r

/-- No RESET among the next `n` cycles. -/
def resetFree (n : Nat) (s : State) : Prop := ∀ w ∈ wordsAhead n s.input, rstBit w = false

/-- The accepted distances among output events, in order. -/
def acceptedOf : List OutEvent → List Dist
  | [] => []
  | .accepted d :: os => d :: acceptedOf os
  | .presence _ :: os => acceptedOf os

/-- The presence bits among output events, in order. -/
def presencesOf : List OutEvent → List PresBit
  | [] => []
  | .accepted _ :: os => presencesOf os
  | .presence p :: os => p :: presencesOf os

/-- The bytes the words of a run deliver, in order. -/
def bytesOf (ws : List CycleWord) : List Byte :=
  ws.filterMap fun w => if rxValidBit w then some (rxData w) else none

end Sys2Proof.Safety
end

