-- ==== Sys2Proof/Certificates/Slice0/Obligations.lean ====
section
/-!
DEFINITION. The statements for the provers, written from the spec's numbered rules.
A state's data ports and its counter of free values are constrained only where a rule gives them a value.
-/

open Sys2Proof Sys2Proof.Machine Sys2Proof.Safety

/-! ### Encodings -/

/-- Decoding the bytes of a well-formed event gives it back, with every operand at every value, and so does
decoding its table word; the layout of a cycle word in two bytes is the model's choice (log entry 7). -/
def Obligations.DecodeOfEncodeIsTheEvent : Prop :=
  ∀ i : Instr, i.wellFormed = true →
    (∀ rest, decodeBytes i.format (encode i ++ rest) = .ok (i, rest)) ∧
    decodeTableWord (8 * i.format.byteCount) (encodeWord i).toNat = some i ∧
    (∀ w, encodeCycle i = some w → decodeCycle w = i)

/-- 30_encoding R44: the table of the cycle word, its rows' priorities, that every word is exactly one row, and
that a cycle runs the row's event sequence. -/
def Obligations.CycleWordRunsItsRow : Prop :=
  (∀ w : CycleWord,
    (w.getLsbD 10 = true → decodeCycle w = .reset) ∧
    (w.getLsbD 10 = false → w.getLsbD 9 = false → w.getLsbD 8 = false → decodeCycle w = .idle) ∧
    (w.getLsbD 10 = false → w.getLsbD 9 = false → w.getLsbD 8 = true →
      decodeCycle w = .rxByte (w.extractLsb' 0 8)) ∧
    (w.getLsbD 10 = false → w.getLsbD 9 = true → w.getLsbD 8 = false → decodeCycle w = .tick) ∧
    (w.getLsbD 10 = false → w.getLsbD 9 = true → w.getLsbD 8 = true →
      decodeCycle w = .tickRx (w.extractLsb' 0 8)) ∧
    (decodeCycle w).format = .cycle ∧ (decodeCycle w).row.covers (w.setWidth 32) = true ∧
    (∀ j : Instr, j.format = .cycle → j.row.covers (w.setWidth 32) = true →
      j.row = (decodeCycle w).row ∨ (decodeCycle w).row.priority < j.row.priority)) ∧
  (∀ j : Instr, j.format = .cycle → (j.row.priority = 1 ↔ j = .reset)) ∧
  (∀ s : State, ∃ t, step s = .next t ∧
    (blockOf t, t.outs) = txnRun s.cfg (blockOf s) (eventsOf s.nextWord))

/-- 30_encoding R46: the packing of the frame word and where RawDistance stands in it. -/
def Obligations.FrameWordPacksBytes : Prop :=
  ∀ b0 b1 b2 b3 : Byte,
    (frameWord b0 b1 b2 b3).extractLsb' 0 8 = b0 ∧ (frameWord b0 b1 b2 b3).extractLsb' 8 8 = b1 ∧
    (frameWord b0 b1 b2 b3).extractLsb' 16 8 = b2 ∧ (frameWord b0 b1 b2 b3).extractLsb' 24 8 = b3 ∧
    (frameWord b0 b1 b2 b3).extractLsb' 0 16 = b1 ++ b0 ∧
    (frameWord b0 b1 b2 b3).extractLsb' 16 16 = rawDistance b2 b3

/-- 30_encoding R47: the sync check, in bytes, in the frame word, and in the match/mask form of the two rows. -/
def Obligations.FrameIsValidIffSyncBytes : Prop :=
  (∀ b0 b1 b2 b3 : Byte,
    (b0 = 0x59 ∧ b1 = 0x59 → decodeFrame b0 b1 b2 b3 = .validFrame b2 b3) ∧
    (¬(b0 = 0x59 ∧ b1 = 0x59) → decodeFrame b0 b1 b2 b3 = .invalidFrame b0 b1 b2 b3)) ∧
  (∀ W : FrameWord,
    (W.extractLsb' 0 16 = 0x5959 →
      decodeFrameWord W = .validFrame (W.extractLsb' 16 8) (W.extractLsb' 24 8)) ∧
    (W.extractLsb' 0 16 ≠ 0x5959 →
      decodeFrameWord W =
        .invalidFrame (W.extractLsb' 0 8) (W.extractLsb' 8 8) (W.extractLsb' 16 8) (W.extractLsb' 24 8)) ∧
    (W &&& 0x0000FFFF = 0x00005959 ↔ W.extractLsb' 0 16 = 0x5959)) ∧
  (∀ lo hi, (Instr.validFrame lo hi).row = { pattern := 0x00005959, mask := 0x0000FFFF, priority := 1 }) ∧
  (∀ b0 b1 b2 b3, (Instr.invalidFrame b0 b1 b2 b3).row.mask = 0 ∧
    (Instr.invalidFrame b0 b1 b2 b3).row.priority = 2)

/-- 30_encoding R53 and the table's rows: words written out bit by bit decode to the events they stand for, and the
events' cycle words are those of the notation. -/
def Obligations.WrittenWordsDecode : Prop :=
  decodeCycle 0b10000000000 = .reset ∧ decodeCycle 0b11111111111 = .reset ∧
  decodeCycle 0b00000000000 = .idle ∧ decodeCycle 0b00010111011 = .idle ∧
  decodeCycle 0b00110111011 = .rxByte 0xBB ∧
  decodeCycle 0b01000000000 = .tick ∧ decodeCycle 0b01101011001 = .tickRx 0x59 ∧
  decodeFrameWord 0b00000001001011000101100101011001 = .validFrame 0x2C 0x01 ∧
  decodeFrameWord 0b00000000110010000101100101011000 = .invalidFrame 0x58 0x59 0xC8 0x00 ∧
  encodeCycle .reset = some 0x400 ∧ encodeCycle .idle = some 0x000 ∧
  encodeCycle (.rxByte 0xBB) = some 0x1BB ∧ encodeCycle .tick = some 0x200 ∧
  encodeCycle (.tickRx 0xBB) = some 0x3BB

/-- 30_encoding R48: the assembled distance, as a sum in 16 bits, as a number, and as the field of the frame
word; the sum neither carries nor wraps. -/
def Obligations.RawDistanceIsLittleEndian : Prop :=
  ∀ b0 b1 b2 b3 : Byte,
    rawDistance b2 b3 = b2.setWidth 16 + b3.setWidth 16 * 256 ∧
    rawDistance b2 b3 = b3 ++ b2 ∧
    rawDistance b2 b3 = (frameWord b0 b1 b2 b3).extractLsb' 16 16 ∧
    (rawDistance b2 b3).toNat = b2.toNat + b3.toNat * 256 ∧
    b2.toNat + b3.toNat * 256 ≤ 65535

/-! ### The events -/

/-- 70_reset_and_hazards R100: RESET's encoding, what it writes, that it emits nothing, that it is idempotent,
and that the first accepted value after it emits Presence again. -/
def Obligations.ResetPutsTheInitialState : Prop :=
  (∀ w : CycleWord, w.getLsbD 10 = true → decodeCycle w = .reset) ∧
  (∀ s : State, ∃ t, exec .reset s = .next t ∧
    t.buf = [] ∧ t.prev = 0 ∧ t.edge = (if s.cfg.presenceEn then .unknown else s.edge) ∧
    t.distValid = false ∧ t.presValid = false ∧ t.outs = [] ∧ t.cfg = s.cfg ∧ t.input = s.input ∧
    (∃ u, exec .reset t = .next u ∧ blockOf u = blockOf t ∧ u.outs = t.outs) ∧
    (s.cfg.presenceEn = true → ∀ lo hi,
      ∃ u, exec (.validFrame lo hi) t = .next u ∧ (u.distValid = true → u.presValid = true)))

/-- 40_input_events R55: IDLE changes no state and emits nothing, and idle cycles put between events change no
outcome of a run. -/
def Obligations.IdleCyclesChangeNoOutcome : Prop :=
  (∀ w : CycleWord, w.extractLsb' 8 3 = 0b000 → decodeCycle w = .idle) ∧
  (∀ s : State, ∃ t, exec .idle s = .next t ∧ blockOf t = blockOf s ∧ t.outs = [] ∧ t.cfg = s.cfg ∧
    t.input = s.input) ∧
  (∀ (s : State) (idles : List CycleWord) (n : Nat), (∀ w ∈ idles, w.extractLsb' 8 3 = 0b000) →
    ∃ t u os, runOuts n s = .next (t, os) ∧
      runOuts (idles.length + n) { s with input := idles ++ s.input } = .next (u, os) ∧
      blockOf u = blockOf t ∧ u.cfg = t.cfg ∧ u.input = t.input)

/-- 40_input_events R54: RX_BYTE appends its byte, or discards it when the buffer is full, and does nothing
else. -/
def Obligations.RxByteAppendsUnlessFull : Prop :=
  (∀ w : CycleWord, w.extractLsb' 8 3 = 0b001 → decodeCycle w = .rxByte (w.extractLsb' 0 8)) ∧
  (∀ (b : Byte) (s : State), ∃ t, exec (.rxByte b) s = .next t ∧
    t.buf = (if s.buf.length < s.cfg.fifoDepth then s.buf ++ [b] else s.buf) ∧
    t.prev = s.prev ∧ t.edge = s.edge ∧ t.outs = [] ∧ t.cfg = s.cfg ∧ t.input = s.input)

/-- 41_frame_parser R58: TICK is its pseudocode (Safety's `txnStep` transcribes it), changes nothing else of the
state, and has the encoding 0b010. -/
def Obligations.TickFollowsThePseudocode : Prop :=
  (∀ w : CycleWord, w.extractLsb' 8 3 = 0b010 → decodeCycle w = .tick) ∧
  (∀ s : State, ∃ t, exec .tick s = .next t ∧
    (blockOf t, t.outs) = txnStep s.cfg (blockOf s) .tick ∧ t.cfg = s.cfg ∧ t.input = s.input)

/-- 41_frame_parser R60: with at most 4 bytes buffered a TICK changes nothing and emits nothing. -/
def Obligations.TickBelowGateChangesNothing : Prop :=
  ∀ s : State, s.buf.length ≤ 4 → ∃ t, exec .tick s = .next t ∧
    t.buf = s.buf ∧ t.prev = s.prev ∧ t.edge = s.edge ∧ t.outs = [] ∧ t.cfg = s.cfg ∧ t.input = s.input

/-- 41_frame_parser R59, R61, R62: with more than 4 bytes buffered a TICK runs the frame of the four oldest bytes,
whatever the rest is, and leaves the buffer empty. -/
def Obligations.DecodingTickRunsTheFrontFrame : Prop :=
  ∀ (s : State) (b0 b1 b2 b3 b4 : Byte) (rest : List Byte), s.buf = b0 :: b1 :: b2 :: b3 :: b4 :: rest →
    exec .tick s = exec (decodeFrame b0 b1 b2 b3) s ∧ ∃ t, exec .tick s = .next t ∧ t.buf = []

/-- 41_frame_parser R63: a TICK that captures a frame with a wrong sync byte empties the buffer and does nothing
else; with both right, it goes on with the frame whatever b2 and b3 are. -/
def Obligations.BadSyncTickYieldsNoValue : Prop :=
  ∀ (s : State) (b0 b1 b2 b3 b4 : Byte) (rest : List Byte), s.buf = b0 :: b1 :: b2 :: b3 :: b4 :: rest →
    (¬(b0 = 0x59 ∧ b1 = 0x59) → ∃ t, exec .tick s = .next t ∧ t.buf = [] ∧ t.prev = s.prev ∧
      t.edge = s.edge ∧ t.outs = [] ∧ t.cfg = s.cfg ∧ t.input = s.input) ∧
    (b0 = 0x59 ∧ b1 = 0x59 → exec .tick s = exec (.validFrame b2 b3) s)

/-- 40_input_events R56: TICK_RX is the TICK and then the byte, with the TICK's outputs; the TICK sees the buffer
without the byte, and the byte survives the flush. -/
def Obligations.TickRxIsTickThenByte : Prop :=
  (∀ w : CycleWord, w.extractLsb' 8 3 = 0b011 → decodeCycle w = .tickRx (w.extractLsb' 0 8)) ∧
  (∀ (b : Byte) (s : State), ∃ s1 s2 t, exec .tick s = .next s1 ∧ exec (.rxByte b) s1 = .next s2 ∧
    exec (.tickRx b) s = .next t ∧ blockOf t = blockOf s2 ∧ t.outs = s1.outs ∧ s2.outs = [] ∧
    t.cfg = s.cfg ∧ t.input = s.input ∧
    (s.buf.length ≤ 4 → t.outs = [] ∧
      t.buf = if s.buf.length < s.cfg.fifoDepth then s.buf ++ [b] else s.buf) ∧
    (4 < s.buf.length → 0 < s.cfg.fifoDepth → t.buf = [b]))

/-- 42_distance_filter R68 with 41_frame_parser R64, R65 and 43_presence_detector R80: what a valid frame does, in
exact arithmetic, for every frame, configuration and state; a TICK that finds the frame at the front of the
buffer, and a byte more, runs it. -/
def Obligations.ValidFrameIsClampedAndFiltered : Prop :=
  ∀ (lo hi : Byte) (s : State) (d : Nat), d = min (lo.toNat + hi.toNat * 256) s.cfg.maxDistance.toNat →
    ∃ t, exec (.validFrame lo hi) s = .next t ∧ t.buf = [] ∧ t.cfg = s.cfg ∧ t.input = s.input ∧
      (∀ b4 rest, s.buf = 0x59 :: 0x59 :: lo :: hi :: b4 :: rest → exec .tick s = .next t) ∧
      (((d : Int) - s.prev.toNat).natAbs < s.cfg.epsilon.toNat →
        t.prev = s.prev ∧ t.edge = s.edge ∧ t.outs = []) ∧
      (s.cfg.epsilon.toNat ≤ ((d : Int) - s.prev.toNat).natAbs →
        t.prev.toNat = d ∧
        (s.cfg.presenceEn = false → t.edge = s.edge ∧ t.outs = [.accepted t.prev]) ∧
        (s.cfg.presenceEn = true →
          (d < s.cfg.maxDistance.toNat → t.edge = .present ∧
            t.outs = .accepted t.prev :: if s.edge = .present then [] else [.presence 1]) ∧
          (s.cfg.maxDistance.toNat ≤ d → t.edge = .absent ∧
            t.outs = .accepted t.prev :: if s.edge = .absent then [] else [.presence 0])))

/-- 41_frame_parser R63, 60_exceptions R88: an invalid frame consumes the buffer, changes nothing else and emits
nothing. -/
def Obligations.InvalidFrameConsumesTheBuffer : Prop :=
  ∀ (b0 b1 b2 b3 : Byte) (s : State), ∃ t, exec (.invalidFrame b0 b1 b2 b3) s = .next t ∧ t.buf = [] ∧
    t.prev = s.prev ∧ t.edge = s.edge ∧ t.outs = [] ∧ t.cfg = s.cfg ∧ t.input = s.input

/-! ### The data path -/

/-- 41_frame_parser R65: the clamp is the minimum, with the rule's corner cases. -/
def Obligations.ClampIsTheMinimum : Prop :=
  (∀ (c : Cfg) (raw : Dist),
    (clampDistance c raw).toNat = min raw.toNat c.maxDistance.toNat ∧
    (raw = c.maxDistance → clampDistance c raw = c.maxDistance) ∧
    (raw.toNat = c.maxDistance.toNat + 1 → clampDistance c raw = c.maxDistance) ∧
    (c.maxDistance = 0 → clampDistance c raw = 0) ∧
    (c.maxDistance = 65535 → clampDistance c raw = raw)) ∧
  (∀ (c : Cfg) (lo hi : Byte),
    (clampDistance c (rawDistance lo hi)).toNat = max 0 (min (lo.toNat + hi.toNat * 256) c.maxDistance.toNat))

/-- 42_distance_filter R69: the difference is exact in both directions. -/
def Obligations.DeltaIsTheExactDifference : Prop :=
  (∀ d prev : Dist,
    (prev.toNat ≤ d.toNat → (delta d prev : Int) = d.toNat - prev.toNat) ∧
    (d.toNat < prev.toNat → (delta d prev : Int) = prev.toNat - d.toNat) ∧
    delta d prev ≤ 65535 ∧ delta d d = 0) ∧
  delta 0 65535 = 65535

/-- 42_distance_filter R70: the reject condition is strict and a reject changes nothing; EPSILON 0 rejects nothing,
1 only a repeat, 65535 all but the full span; with EPSILON at least 1 a distance fed twice in a row emits nothing
the second time; with `prev` 0, as after reset, every distance below EPSILON is rejected. -/
def Obligations.RejectsExactlyBelowEpsilon : Prop :=
  (∀ (d : Dist) (s : State), delta d s.prev < s.cfg.epsilon.toNat → filterDistance d s = s) ∧
  (∀ (d : Dist) (s : State), s.cfg.epsilon.toNat ≤ delta d s.prev →
    (filterDistance d s).prev = d ∧ (filterDistance d s).distValid = true ∧
      (filterDistance d s).distData = d) ∧
  (∀ (c : Cfg) (d prev : Dist), c.epsilon = 0 → filterRejects c d prev = false) ∧
  (∀ (c : Cfg) (d prev : Dist), c.epsilon = 1 → (filterRejects c d prev = true ↔ d = prev)) ∧
  (∀ (c : Cfg) (d prev : Dist), c.epsilon = 65535 → (filterRejects c d prev = false ↔ delta d prev = 65535)) ∧
  (∀ (d : Dist) (s : State), s.prev = 0 → d.toNat < s.cfg.epsilon.toNat → filterDistance d s = s) ∧
  (∀ (lo hi lo' hi' : Byte) (s t u : State), 1 ≤ s.cfg.epsilon.toNat →
    clampDistance s.cfg (rawDistance lo hi) = clampDistance s.cfg (rawDistance lo' hi') →
    exec (.validFrame lo hi) s = .next t → u.cfg = t.cfg → u.prev = t.prev →
      ∃ v, exec (.validFrame lo' hi') u = .next v ∧ v.outs = [] ∧ v.prev = u.prev ∧ v.edge = u.edge)

/-- 43_presence_detector R79: the presence bit is the strict comparison, false exactly at the ceiling for a
clamped distance. -/
def Obligations.IsThereIsStrictlyBelowTheCeiling : Prop :=
  ∀ (c : Cfg) (d : Dist),
    (isThere c d = 1 ↔ d.toNat < c.maxDistance.toNat) ∧ (isThere c d = 0 ↔ c.maxDistance.toNat ≤ d.toNat) ∧
    (∀ raw, d = clampDistance c raw →
      (isThere c d = 0 ↔ d = c.maxDistance) ∧ (isThere c d = 0 ↔ c.maxDistance.toNat ≤ raw.toNat)) ∧
    (c.maxDistance = 0 → isThere c d = 0) ∧ (d.toNat + 1 = c.maxDistance.toNat → isThere c d = 1)

/-- 43_presence_detector R80 and R82: the presence step writes the new state and emits on a transition, from
Unknown or to the other state, and otherwise changes nothing. -/
def Obligations.PresenceFiresOnTransitionsOnly : Prop :=
  ∀ (d : Dist) (s : State) (new : Edge) (p : PresBit),
    (d.toNat < s.cfg.maxDistance.toNat → new = .present ∧ p = 1) →
    (s.cfg.maxDistance.toNat ≤ d.toNat → new = .absent ∧ p = 0) →
      (s.edge = .unknown ∨ s.edge ≠ new →
        presenceStep d s = { s with edge := new, presValid := true, presValue := p }) ∧
      (s.edge = new → presenceStep d s = s)

/-- 10_state R27: the RTL code of the presence state, and that 0b11 is treated as Unknown. -/
def Obligations.EdgeCodeIsTheTwoBitCode : Prop :=
  Edge.code .unknown = 0b00 ∧ Edge.code .absent = 0b01 ∧ Edge.code .present = 0b10 ∧
  (∀ e : Edge, Edge.ofCode e.code = e) ∧ Edge.ofCode 0b11 = .unknown ∧ (∀ e : Edge, e.code ≠ 0b11)

/-! ### Steps -/

/-- A step is the meaning of the event the next cycle word decodes to, on the state with that word taken; with no
word left it is an IDLE cycle, which is the model's choice (log entry 1). -/
def Obligations.StepRunsTheDecodedEvent : Prop :=
  (∀ (s : State) (w : CycleWord) (rest : List CycleWord), s.input = w :: rest →
    step s = exec (decodeCycle w) { s with input := rest }) ∧
  (∀ s : State, s.input = [] → step s = exec .idle s)

/-- 60_exceptions R87, 00_scope R10: no event on any state faults, and every state has a next one. -/
def Obligations.EveryEventAnswersANextState : Prop :=
  (∀ (i : Instr) (s : State), ∃ t, exec i s = .next t) ∧ (∀ s : State, ∃ t, step s = .next t) ∧
  (∀ s t u : State, step s = .next t → step s = .next u → t = u)

/-- The state after reset is the table of 10_state R30, with the default configuration of R17; RESET leads there from
every state, the configuration being what the host drives. -/
def Obligations.ResetStateIsTheResetTable : Prop :=
  State.reset.buf = [] ∧ State.reset.count = 0 ∧ State.reset.prev = 0 ∧ State.reset.edge = .unknown ∧
  State.reset.edge.code = 0b00 ∧ State.reset.distValid = false ∧ State.reset.presValid = false ∧
  State.reset.cfg.maxDistance = 200 ∧ State.reset.cfg.epsilon = 2 ∧ State.reset.cfg.normalize = false ∧
  State.reset.cfg.presenceEn = true ∧
  (∀ s : State, ∃ t, exec .reset s = .next t ∧ t.buf = [] ∧ t.count = 0 ∧ t.prev = 0 ∧
    (s.cfg.presenceEn = true → t.edge = .unknown) ∧ t.distValid = false ∧ t.presValid = false ∧ t.cfg = s.cfg)

/-- 10_state R25, R26, 42_distance_filter R71, 43_presence_detector R83: in a step without RESET, `prev` and the
presence state change only with an accept, whose event carries the new `prev` and differs from the old one by
at least EPSILON; a step without an accept emits nothing; a presence state that is known stays known. -/
def Obligations.PrevAndEdgeChangeOnlyWithAnAccept : Prop :=
  ∀ s t : State, rstBit s.nextWord = false → step s = .next t →
    (t.distValid = false → t.prev = s.prev ∧ t.edge = s.edge ∧ t.outs = []) ∧
    (t.distValid = true → tickBit s.nextWord = true ∧ 4 < s.buf.length ∧ t.distData = t.prev ∧
      s.cfg.epsilon.toNat ≤ ((t.prev.toNat : Int) - s.prev.toNat).natAbs ∧
      t.prev.toNat ≤ s.cfg.maxDistance.toNat ∧
      t.outs = .accepted t.prev :: (if t.presValid then [.presence t.presValue] else [])) ∧
    (s.edge ≠ .unknown → t.edge ≠ .unknown)

/-- 10_state R28: what the valid bits of a cycle show is the previous step's alone: a step that is no TICK, or is a
RESET, leaves both of them 0 whatever they were. -/
def Obligations.StrobesLastOneCycle : Prop :=
  ∀ s : State, rstBit s.nextWord = true ∨ tickBit s.nextWord = false →
    ∃ t, step s = .next t ∧ t.distValid = false ∧ t.presValid = false

/-- 10_state R23: no step changes the configuration. 10_state R21: none reads NORMALIZE; it tells the consumer
which output value to form. -/
def Obligations.NormalizeIsNotReadByTheBlock : Prop :=
  (∀ s t : State, step s = .next t → t.cfg = s.cfg) ∧
  (∀ (s : State) (b : Bool), ∃ t, step s = .next t ∧
    step { s with cfg := { s.cfg with normalize := b } } =
      .next { t with cfg := { t.cfg with normalize := b } }) ∧
  (∀ (c : Cfg) (d : Dist), (c.normalize = false → outputValue c d = .distance d) ∧
    (c.normalize = true → outputValue c d = .normalized (mapValue d.toNat 0 c.maxDistance.toNat 1 0)))

/-- Every step, from every state that meets the invariant, gives a state that meets it. -/
def Obligations.StepKeepsTheInvariant : Prop :=
  ∀ s t : State, Inv s → step s = .next t → Inv t

/-- The invariant holds right after reset (with the model's FIFO_DEPTH, log entry 3). -/
def Obligations.InvariantHoldsAtReset : Prop := Inv State.reset

/-! ### Runs -/

/-- 00_scope R10: a run of any length from any state ends in a next state, and is the fold of the
transaction-level step over the events of its words, outputs concatenated. -/
def Obligations.RunIsTheTransactionFold : Prop :=
  ∀ (n : Nat) (s : State), ∃ t os, runOuts n s = .next (t, os) ∧
    (blockOf t, os) = txnRun s.cfg (blockOf s) ((wordsAhead n s.input).flatMap eventsOf) ∧
    t.cfg = s.cfg ∧ t.input = s.input.drop n

/-- 10_state R29 (c): after any run without RESET, `prev` is the last accepted distance, or what it was. -/
def Obligations.LastAcceptedDistanceIsPrev : Prop :=
  ∀ (n : Nat) (s : State), resetFree n s → ∃ t os, runOuts n s = .next (t, os) ∧
    t.prev = ((acceptedOf os).getLast?).getD s.prev

/-- 42_distance_filter R68, R71: along any run without RESET, each accepted distance differs from the one accepted
before it, or from the starting `prev`, by at least EPSILON, and none is above MAX_DISTANCE. -/
def Obligations.AcceptedDistancesDifferByEpsilon : Prop :=
  ∀ (n : Nat) (s : State), resetFree n s → ∃ t os, runOuts n s = .next (t, os) ∧
    List.IsChain (fun a b : Dist => s.cfg.epsilon.toNat ≤ ((b.toNat : Int) - a.toNat).natAbs)
      (s.prev :: acceptedOf os) ∧
    ∀ d ∈ acceptedOf os, d.toNat ≤ s.cfg.maxDistance.toNat

/-- 43_presence_detector R80, R82: along any run without RESET, the Presence events alternate, the first differs
from a state that was known, and the detector ends in the state last emitted, or where it was. -/
def Obligations.PresenceEventsAlternate : Prop :=
  ∀ (n : Nat) (s : State), resetFree n s → ∃ t os, runOuts n s = .next (t, os) ∧
    List.IsChain (fun a b : PresBit => a ≠ b) (presencesOf os) ∧
    (∀ p ∈ (presencesOf os).head?, s.edge ≠ Edge.ofBit p) ∧
    t.edge = (((presencesOf os).getLast?).map Edge.ofBit).getD s.edge

/-- 43_presence_detector R86: without the detector, a run is the same run with the Presence events deleted; none
is emitted. -/
def Obligations.DisabledDetectorOnlyDropsPresence : Prop :=
  ∀ (n : Nat) (s s' : State), s.cfg.presenceEn = true → s'.cfg = { s.cfg with presenceEn := false } →
    s'.buf = s.buf → s'.prev = s.prev → s'.input = s.input →
    ∃ t t' os os', runOuts n s = .next (t, os) ∧ runOuts n s' = .next (t', os') ∧
      os' = (acceptedOf os).map .accepted ∧ presencesOf os' = [] ∧
      t'.buf = t.buf ∧ t'.prev = t.prev ∧ t'.edge = s'.edge

/-- 70_reset_and_hazards R105, 20_memory R34: while no TICK and no RESET comes, the bytes delivered are kept in
order up to FIFO_DEPTH, `prev` and the presence state keep their values, and nothing is emitted. -/
def Obligations.BytesWaitWhileNoTickComes : Prop :=
  ∀ (n : Nat) (s : State), s.buf.length ≤ s.cfg.fifoDepth → resetFree n s →
    (∀ w ∈ wordsAhead n s.input, tickBit w = false) →
    ∃ t os, runOuts n s = .next (t, os) ∧ os = [] ∧ t.prev = s.prev ∧ t.edge = s.edge ∧
      t.buf = (s.buf ++ bytesOf (wordsAhead n s.input)).take s.cfg.fifoDepth

/-- 30_encoding R53: from an empty buffer, the six cycle words of the pseudo-event `SAMPLE d` decode d: their
outputs and the state they leave are those of the valid frame with d's two bytes. -/
def Obligations.SampleDecodesItsDistance : Prop :=
  ∀ (s : State) (d : Dist) (rest : List CycleWord), s.buf = [] → 5 ≤ s.cfg.fifoDepth →
    s.input = assemble (sampleEvents d) ++ rest →
    ∃ t u os, runOuts 6 s = .next (t, os) ∧
      exec (.validFrame (d.extractLsb' 0 8) (d.extractLsb' 8 8)) s = .next u ∧
      rawDistance (d.extractLsb' 0 8) (d.extractLsb' 8 8) = d ∧
      blockOf t = blockOf u ∧ os = u.outs ∧ t.input = rest

/-! ### The consumer's output value -/

/-- 42_distance_filter R74: outside the guard, map_value is the affine formula clamped, which sends inmin to outmin
and inmax to outmax. -/
def Obligations.MapValueSendsEndPointsToEndPoints : Prop :=
  ∀ x inmin inmax outmin outmax : Rat, ¬|inmin - inmax| < 1 / 10000 →
    mapValue x inmin inmax outmin outmax =
      clampToRange (outmin + (x - inmin) * (outmax - outmin) / (inmax - inmin)) outmin outmax ∧
    mapValue inmin inmin inmax outmin outmax = outmin ∧ mapValue inmax inmin inmax outmin outmax = outmax

/-- 42_distance_filter R75, R76: the result lies in the target range whichever way it runs; an empty target gives its
point; a degenerate input range gives outmin. -/
def Obligations.MapValueStaysInItsRange : Prop :=
  ∀ x inmin inmax outmin outmax : Rat,
    min outmin outmax ≤ mapValue x inmin inmax outmin outmax ∧
    mapValue x inmin inmax outmin outmax ≤ max outmin outmax ∧
    mapValue x inmin inmax outmin outmin = outmin ∧
    (|inmin - inmax| < 1 / 10000 → mapValue x inmin inmax outmin outmax = outmin)

/-- 42_distance_filter R77: the normalization of this block is exactly (MAX_DISTANCE - d) / MAX_DISTANCE in [0, 1],
1 near and 0 far, and 1 when MAX_DISTANCE is 0. -/
def Obligations.NormalizationIsNearOneFarZero : Prop :=
  ∀ (c : Cfg) (d : Dist), d.toNat ≤ c.maxDistance.toNat →
    (c.normalize = true → outputValue c d = .normalized (mapValue d.toNat 0 c.maxDistance.toNat 1 0)) ∧
    normalizedValue c d = mapValue d.toNat 0 c.maxDistance.toNat 1 0 ∧
    (1 ≤ c.maxDistance.toNat →
      normalizedValue c d = ((c.maxDistance.toNat : Rat) - d.toNat) / c.maxDistance.toNat ∧
      affineMap d.toNat 0 c.maxDistance.toNat 1 0 = normalizedValue c d) ∧
    (c.maxDistance.toNat = 0 → normalizedValue c d = 1) ∧
    0 ≤ normalizedValue c d ∧ normalizedValue c d ≤ 1
end

