-- ==== Sys2Proof/Laws/State.lean ====
section
/-!
SUPPORT. What each state update does to each field, true by rfl, so that no later proof unfolds a record
update.
-/
namespace Sys2Proof.Machine

open Sys2Proof

variable (s : State)

/-! `Flush()` changes the buffer only. -/

@[simp] theorem State.flush_cfg : (s.flush).cfg = s.cfg := rfl
@[simp] theorem State.flush_buf : (s.flush).buf = [] := rfl
@[simp] theorem State.flush_prev : (s.flush).prev = s.prev := rfl
@[simp] theorem State.flush_edge : (s.flush).edge = s.edge := rfl
@[simp] theorem State.flush_distValid : (s.flush).distValid = s.distValid := rfl
@[simp] theorem State.flush_distData : (s.flush).distData = s.distData := rfl
@[simp] theorem State.flush_presValid : (s.flush).presValid = s.presValid := rfl
@[simp] theorem State.flush_presValue : (s.flush).presValue = s.presValue := rfl
@[simp] theorem State.flush_input : (s.flush).input = s.input := rfl
@[simp] theorem State.flush_draws : (s.flush).draws = s.draws := rfl

/-! `Enqueue(b)` changes the buffer only. -/

@[simp] theorem State.enqueue_cfg (b : Byte) : (s.enqueue b).cfg = s.cfg := rfl
@[simp] theorem State.enqueue_buf (b : Byte) : (s.enqueue b).buf = s.buf ++ [b] := rfl
@[simp] theorem State.enqueue_prev (b : Byte) : (s.enqueue b).prev = s.prev := rfl
@[simp] theorem State.enqueue_edge (b : Byte) : (s.enqueue b).edge = s.edge := rfl
@[simp] theorem State.enqueue_distValid (b : Byte) : (s.enqueue b).distValid = s.distValid := rfl
@[simp] theorem State.enqueue_distData (b : Byte) : (s.enqueue b).distData = s.distData := rfl
@[simp] theorem State.enqueue_presValid (b : Byte) : (s.enqueue b).presValid = s.presValid := rfl
@[simp] theorem State.enqueue_presValue (b : Byte) : (s.enqueue b).presValue = s.presValue := rfl
@[simp] theorem State.enqueue_input (b : Byte) : (s.enqueue b).input = s.input := rfl
@[simp] theorem State.enqueue_draws (b : Byte) : (s.enqueue b).draws = s.draws := rfl

/-! Clearing the outputs changes the ports and the counter of free values only. -/

@[simp] theorem State.clearOutputs_cfg : (s.clearOutputs).cfg = s.cfg := rfl
@[simp] theorem State.clearOutputs_buf : (s.clearOutputs).buf = s.buf := rfl
@[simp] theorem State.clearOutputs_prev : (s.clearOutputs).prev = s.prev := rfl
@[simp] theorem State.clearOutputs_edge : (s.clearOutputs).edge = s.edge := rfl
@[simp] theorem State.clearOutputs_distValid : (s.clearOutputs).distValid = false := rfl
@[simp] theorem State.clearOutputs_distData : (s.clearOutputs).distData = Config.freeDistData s.draws := rfl
@[simp] theorem State.clearOutputs_presValid : (s.clearOutputs).presValid = false := rfl
@[simp] theorem State.clearOutputs_presValue : (s.clearOutputs).presValue = Config.freePresValue s.draws := rfl
@[simp] theorem State.clearOutputs_input : (s.clearOutputs).input = s.input := rfl
@[simp] theorem State.clearOutputs_draws : (s.clearOutputs).draws = s.draws + 1 := rfl

/-! `emit Accepted(d)` changes the distance ports only. -/

@[simp] theorem State.emitAccepted_cfg (d : Dist) : (s.emitAccepted d).cfg = s.cfg := rfl
@[simp] theorem State.emitAccepted_buf (d : Dist) : (s.emitAccepted d).buf = s.buf := rfl
@[simp] theorem State.emitAccepted_prev (d : Dist) : (s.emitAccepted d).prev = s.prev := rfl
@[simp] theorem State.emitAccepted_edge (d : Dist) : (s.emitAccepted d).edge = s.edge := rfl
@[simp] theorem State.emitAccepted_distValid (d : Dist) : (s.emitAccepted d).distValid = true := rfl
@[simp] theorem State.emitAccepted_distData (d : Dist) : (s.emitAccepted d).distData = d := rfl
@[simp] theorem State.emitAccepted_presValid (d : Dist) : (s.emitAccepted d).presValid = s.presValid := rfl
@[simp] theorem State.emitAccepted_presValue (d : Dist) : (s.emitAccepted d).presValue = s.presValue := rfl
@[simp] theorem State.emitAccepted_input (d : Dist) : (s.emitAccepted d).input = s.input := rfl
@[simp] theorem State.emitAccepted_draws (d : Dist) : (s.emitAccepted d).draws = s.draws := rfl

/-! `emit Presence(p)` changes the presence ports only. -/

@[simp] theorem State.emitPresence_cfg (p : PresBit) : (s.emitPresence p).cfg = s.cfg := rfl
@[simp] theorem State.emitPresence_buf (p : PresBit) : (s.emitPresence p).buf = s.buf := rfl
@[simp] theorem State.emitPresence_prev (p : PresBit) : (s.emitPresence p).prev = s.prev := rfl
@[simp] theorem State.emitPresence_edge (p : PresBit) : (s.emitPresence p).edge = s.edge := rfl
@[simp] theorem State.emitPresence_distValid (p : PresBit) : (s.emitPresence p).distValid = s.distValid := rfl
@[simp] theorem State.emitPresence_distData (p : PresBit) : (s.emitPresence p).distData = s.distData := rfl
@[simp] theorem State.emitPresence_presValid (p : PresBit) : (s.emitPresence p).presValid = true := rfl
@[simp] theorem State.emitPresence_presValue (p : PresBit) : (s.emitPresence p).presValue = p := rfl
@[simp] theorem State.emitPresence_input (p : PresBit) : (s.emitPresence p).input = s.input := rfl
@[simp] theorem State.emitPresence_draws (p : PresBit) : (s.emitPresence p).draws = s.draws := rfl

/-! Taking the cycle word changes the host's list only. -/

@[simp] theorem State.takeWord_cfg : (s.takeWord).cfg = s.cfg := rfl
@[simp] theorem State.takeWord_buf : (s.takeWord).buf = s.buf := rfl
@[simp] theorem State.takeWord_prev : (s.takeWord).prev = s.prev := rfl
@[simp] theorem State.takeWord_edge : (s.takeWord).edge = s.edge := rfl
@[simp] theorem State.takeWord_distValid : (s.takeWord).distValid = s.distValid := rfl
@[simp] theorem State.takeWord_distData : (s.takeWord).distData = s.distData := rfl
@[simp] theorem State.takeWord_presValid : (s.takeWord).presValid = s.presValid := rfl
@[simp] theorem State.takeWord_presValue : (s.takeWord).presValue = s.presValue := rfl
@[simp] theorem State.takeWord_input : (s.takeWord).input = s.input.tail := rfl
@[simp] theorem State.takeWord_draws : (s.takeWord).draws = s.draws := rfl

/-! RESET's writes: the buffer, `prev` and `edge` only. -/

@[simp] theorem resetEffect_cfg : (resetEffect s).cfg = s.cfg := rfl
@[simp] theorem resetEffect_buf : (resetEffect s).buf = [] := rfl
@[simp] theorem resetEffect_prev : (resetEffect s).prev = 0 := rfl
@[simp] theorem resetEffect_edge : (resetEffect s).edge = (if s.cfg.presenceEn then .unknown else s.edge) := rfl
@[simp] theorem resetEffect_distValid : (resetEffect s).distValid = s.distValid := rfl
@[simp] theorem resetEffect_distData : (resetEffect s).distData = s.distData := rfl
@[simp] theorem resetEffect_presValid : (resetEffect s).presValid = s.presValid := rfl
@[simp] theorem resetEffect_presValue : (resetEffect s).presValue = s.presValue := rfl
@[simp] theorem resetEffect_input : (resetEffect s).input = s.input := rfl
@[simp] theorem resetEffect_draws : (resetEffect s).draws = s.draws := rfl

end Sys2Proof.Machine
end

