-- ==== Sys2Proof/Laws/Ops.lean ====
section
/-!
SUPPORT. One statement per shared operation of everything it can do, which proofs cite instead of unfolding it.
-/
namespace Sys2Proof.Machine

open Sys2Proof

variable (s : State)

/-! ### The receive buffer -/

theorem gateMet_iff : gateMet s = true ↔ 4 < s.buf.length :=
  decide_eq_true_iff (p := 5 ≤ s.buf.length)

/-- A buffer that meets the gate has its four oldest bytes and at least one more. -/
theorem gateMet_cons (h : gateMet s = true) :
    ∃ b0 b1 b2 b3 b4 rest, s.buf = b0 :: b1 :: b2 :: b3 :: b4 :: rest := by
  rw [gateMet_iff] at h
  match hb : s.buf with
  | [] | [_] | [_, _] | [_, _, _] | [_, _, _, _] => simp [hb] at h
  | b0 :: b1 :: b2 :: b3 :: b4 :: rest => exact ⟨b0, b1, b2, b3, b4, rest, rfl⟩

theorem State.capture_cons {b0 b1 b2 b3 : Byte} {rest : List Byte}
    (h : s.buf = b0 :: b1 :: b2 :: b3 :: rest) :
    s.capture = some ((b0, b1, b2, b3), { s with buf := rest }) := by
  simp [State.capture, State.popFront, h]

/-- Receiving a byte either appends it or, on a full buffer, changes nothing. -/
theorem State.receive_cases (b : Byte) :
    (s.buf.length < s.cfg.fifoDepth ∧ s.receive b = s.enqueue b) ∨
      (s.cfg.fifoDepth ≤ s.buf.length ∧ s.receive b = s) := by
  unfold State.receive State.count
  split
  · exact .inl ⟨‹_›, rfl⟩
  · exact .inr ⟨by omega, rfl⟩

theorem State.receive_frame (b : Byte) :
    s.receive b = { s with buf := (s.receive b).buf } := by
  rcases s.receive_cases b with ⟨_, h⟩ | ⟨_, h⟩
  · rw [h]; rfl
  · rw [h]

@[simp] theorem State.receive_cfg (b : Byte) : (s.receive b).cfg = s.cfg := by rw [s.receive_frame b]
@[simp] theorem State.receive_prev (b : Byte) : (s.receive b).prev = s.prev := by rw [s.receive_frame b]
@[simp] theorem State.receive_edge (b : Byte) : (s.receive b).edge = s.edge := by rw [s.receive_frame b]
@[simp] theorem State.receive_input (b : Byte) : (s.receive b).input = s.input := by
  rw [s.receive_frame b]
@[simp] theorem State.receive_distValid (b : Byte) : (s.receive b).distValid = s.distValid := by
  rw [s.receive_frame b]
@[simp] theorem State.receive_distData (b : Byte) : (s.receive b).distData = s.distData := by
  rw [s.receive_frame b]
@[simp] theorem State.receive_presValid (b : Byte) : (s.receive b).presValid = s.presValid := by
  rw [s.receive_frame b]
@[simp] theorem State.receive_presValue (b : Byte) : (s.receive b).presValue = s.presValue := by
  rw [s.receive_frame b]
@[simp] theorem State.receive_draws (b : Byte) : (s.receive b).draws = s.draws := by
  rw [s.receive_frame b]

theorem State.receive_buf (b : Byte) :
    (s.receive b).buf = if s.buf.length < s.cfg.fifoDepth then s.buf ++ [b] else s.buf := by
  rcases s.receive_cases b with ⟨hl, h⟩ | ⟨hl, h⟩
  · simp [h, hl]
  · simp [h, Nat.not_lt.2 hl]

/-! ### The output ports -/

@[simp] theorem State.outs_clearOutputs : s.clearOutputs.outs = [] := by simp [State.outs]

/-- The output events depend on the four ports only. -/
theorem State.outs_congr {s t : State} (h1 : s.distValid = t.distValid) (h2 : s.distData = t.distData)
    (h3 : s.presValid = t.presValid) (h4 : s.presValue = t.presValue) : s.outs = t.outs := by
  simp [State.outs, h1, h2, h3, h4]

@[simp] theorem State.outs_receive (b : Byte) : (s.receive b).outs = s.outs :=
  State.outs_congr (by simp) (by simp) (by simp) (by simp)

@[simp] theorem State.outs_flush : s.flush.outs = s.outs := rfl

@[simp] theorem State.outs_resetEffect : (resetEffect s).outs = s.outs := rfl

/-! ### Presence step and filter -/

@[simp] theorem Edge.ofBit_one : Edge.ofBit 1#1 = .present := rfl
@[simp] theorem Edge.ofBit_zero : Edge.ofBit 0#1 = .absent := rfl

/-- The presence step fires on a transition and otherwise changes nothing. -/
theorem presenceStep_cases (d : Dist) :
    (isTransition s.edge (Edge.ofBit (isThere s.cfg d)) = true ∧
      presenceStep d s =
        { s with edge := Edge.ofBit (isThere s.cfg d), presValid := true, presValue := isThere s.cfg d }) ∨
    (isTransition s.edge (Edge.ofBit (isThere s.cfg d)) = false ∧ presenceStep d s = s) := by
  unfold presenceStep
  split
  · exact .inl ⟨‹_›, rfl⟩
  · rename_i h
    exact .inr ⟨by simpa using h, rfl⟩

/-- An accept writes `prev` and emits Accepted, and runs the presence step when the detector is built. -/
theorem acceptDistance_cases (d : Dist) :
    (s.cfg.presenceEn = true ∧
      acceptDistance d s = presenceStep d { s with prev := d, distValid := true, distData := d }) ∨
    (s.cfg.presenceEn = false ∧
      acceptDistance d s = { s with prev := d, distValid := true, distData := d }) := by
  unfold acceptDistance
  split
  · exact .inl ⟨‹_›, rfl⟩
  · rename_i h
    exact .inr ⟨by simpa using h, rfl⟩

/-- The filter rejects and changes nothing, or accepts. -/
theorem filterDistance_cases (d : Dist) :
    (delta d s.prev < s.cfg.epsilon.toNat ∧ filterDistance d s = s) ∨
      (s.cfg.epsilon.toNat ≤ delta d s.prev ∧ filterDistance d s = acceptDistance d s) := by
  unfold filterDistance filterRejects
  split
  · rename_i h
    exact .inl ⟨by simpa using h, rfl⟩
  · rename_i h
    exact .inr ⟨by simpa using h, rfl⟩

/-- What the filter leaves unchanged: everything but `prev`, `edge` and the ports. -/
theorem filterDistance_frame (d : Dist) :
    (filterDistance d s).cfg = s.cfg ∧ (filterDistance d s).buf = s.buf ∧
      (filterDistance d s).input = s.input ∧ (filterDistance d s).draws = s.draws := by
  rcases filterDistance_cases s d with ⟨_, h⟩ | ⟨_, h⟩ <;> rw [h]
  · simp
  · rcases acceptDistance_cases s d with ⟨_, h⟩ | ⟨_, h⟩ <;> rw [h]
    · rcases presenceStep_cases { s with prev := d, distValid := true, distData := d } d with
        ⟨_, h⟩ | ⟨_, h⟩ <;> rw [h] <;> simp
    · simp

@[simp] theorem filterDistance_cfg (d : Dist) : (filterDistance d s).cfg = s.cfg :=
  (filterDistance_frame s d).1
@[simp] theorem filterDistance_buf (d : Dist) : (filterDistance d s).buf = s.buf :=
  (filterDistance_frame s d).2.1
@[simp] theorem filterDistance_input (d : Dist) : (filterDistance d s).input = s.input :=
  (filterDistance_frame s d).2.2.1
@[simp] theorem filterDistance_draws (d : Dist) : (filterDistance d s).draws = s.draws :=
  (filterDistance_frame s d).2.2.2

/-! ### A whole TICK -/

/-- A TICK does nothing below the gate; above it, it leaves the effect of the captured frame on a state with an
empty buffer. -/
theorem tickEffect_cases :
    (s.buf.length ≤ 4 ∧ tickEffect s = s) ∨
      (∃ b0 b1 b2 b3 b4 rest, s.buf = b0 :: b1 :: b2 :: b3 :: b4 :: rest ∧
        tickEffect s = frameEffect b0 b1 b2 b3 s.flush) := by
  unfold tickEffect
  split
  · rename_i h
    obtain ⟨b0, b1, b2, b3, b4, rest, hb⟩ := gateMet_cons s h
    refine .inr ⟨b0, b1, b2, b3, b4, rest, hb, ?_⟩
    rw [s.capture_cons hb]
    rfl
  · rename_i h
    rw [gateMet_iff] at h
    exact .inl ⟨by omega, rfl⟩

/-- A captured frame is invalid and changes nothing more, or its clamped distance is filtered. -/
theorem frameEffect_cases (b0 b1 b2 b3 : Byte) :
    (syncMatches b0 b1 = false ∧ frameEffect b0 b1 b2 b3 s = s) ∨
      (syncMatches b0 b1 = true ∧
        frameEffect b0 b1 b2 b3 s = filterDistance (clampDistance s.cfg (rawDistance b2 b3)) s) := by
  unfold frameEffect
  split
  · exact .inr ⟨‹_›, rfl⟩
  · rename_i h
    exact .inl ⟨by simpa using h, rfl⟩

theorem syncMatches_iff (b0 b1 : Byte) : syncMatches b0 b1 = true ↔ b0 = 0x59 ∧ b1 = 0x59 := by
  simp [syncMatches, Config.sync0, Config.sync1]

end Sys2Proof.Machine
end

