-- ==== Sys2Proof/Laws/Exec.lean ====
section
/-!
SUPPORT. The one equation of each event's meaning, and of a step.
-/
namespace Sys2Proof.Machine

open Sys2Proof

variable (s : State)

theorem exec_reset : exec .reset s = .next (resetEffect s.clearOutputs) := rfl
theorem exec_idle : exec .idle s = .next s.clearOutputs := rfl
theorem exec_rxByte (b : Byte) : exec (.rxByte b) s = .next (s.clearOutputs.receive b) := rfl
theorem exec_tick : exec .tick s = .next (tickEffect s.clearOutputs) := rfl
theorem exec_tickRx (b : Byte) : exec (.tickRx b) s = .next ((tickEffect s.clearOutputs).receive b) := rfl
theorem exec_validFrame (lo hi : Byte) :
    exec (.validFrame lo hi) s = .next (filterDistance (clampDistance s.cfg (rawDistance lo hi)) s.clearOutputs.flush) :=
  rfl
theorem exec_invalidFrame (b0 b1 b2 b3 : Byte) :
    exec (.invalidFrame b0 b1 b2 b3) s = .next s.clearOutputs.flush := rfl

/-- Where a step's event comes from: the five events of the cycle word, by its three control bits. -/
theorem decodeCycle_cases (w : CycleWord) :
    (rstBit w = true ∧ decodeCycle w = .reset) ∨
    (rstBit w = false ∧ tickBit w = false ∧ rxValidBit w = false ∧ decodeCycle w = .idle) ∨
    (rstBit w = false ∧ tickBit w = false ∧ rxValidBit w = true ∧ decodeCycle w = .rxByte (rxData w)) ∨
    (rstBit w = false ∧ tickBit w = true ∧ rxValidBit w = false ∧ decodeCycle w = .tick) ∨
    (rstBit w = false ∧ tickBit w = true ∧ rxValidBit w = true ∧ decodeCycle w = .tickRx (rxData w)) := by
  unfold decodeCycle
  cases rstBit w <;> cases tickBit w <;> cases rxValidBit w <;> simp

end Sys2Proof.Machine
end

