-- ==== Sys2Proof/Laws/PerInstr.lean ====
section
/-!
SUPPORT. Claims about every event, one lemma per constructor.
-/
namespace Sys2Proof.Laws.EncodingMatchesRow

open Sys2Proof

/-- The word the encoder writes for a well-formed event is covered by the event's row of
spec/opcode_table.json, and its encoding has the bytes of its format (30_encoding R44, R47). -/
def Statement (i : Instr) : Prop :=
  i.wellFormed = true → i.row.covers (encodeWord i) = true ∧ (encode i).length = i.format.byteCount

theorem littleEndian_length (n w : Nat) : (littleEndian n w).length = n := by
  induction n generalizing w with
  | zero => rfl
  | succ n ih => simp [littleEndian, ih]

theorem reset : Statement .reset := fun _ => ⟨by decide, littleEndian_length _ _⟩

theorem idle : Statement .idle := fun _ => ⟨by decide, littleEndian_length _ _⟩

theorem rxByte (b : Byte) : Statement (.rxByte b) := fun _ =>
  ⟨by revert b; decide, littleEndian_length _ _⟩

theorem tick : Statement .tick := fun _ => ⟨by decide, littleEndian_length _ _⟩

theorem tickRx (b : Byte) : Statement (.tickRx b) := fun _ =>
  ⟨by revert b; decide, littleEndian_length _ _⟩

theorem validFrame (distLo distHi : Byte) : Statement (.validFrame distLo distHi) := fun _ => by
  refine ⟨?_, littleEndian_length _ _⟩
  simp only [TableRow.covers, Instr.row, encodeWord, frameWord, Config.sync0, Config.sync1, beq_iff_eq]
  ext i hi
  simp only [BitVec.getElem_and, BitVec.getElem_append]
  interval_cases i <;> simp

theorem invalidFrame (b0 b1 b2 b3 : Byte) : Statement (.invalidFrame b0 b1 b2 b3) := fun _ =>
  ⟨by simp [TableRow.covers, Instr.row], littleEndian_length _ _⟩

end Sys2Proof.Laws.EncodingMatchesRow
end

