-- ==== Sys2Proof/Laws/Safety.lean ====
section
/-!
SUPPORT. The small lemmas of the terms claims use: the block's part of a state, event lists, runs.
-/
namespace Sys2Proof.Safety

open Sys2Proof Sys2Proof.Machine

variable (s : State)

@[simp] theorem blockOf_buf : (blockOf s).buf = s.buf := rfl
@[simp] theorem blockOf_prev : (blockOf s).prev = s.prev := rfl
@[simp] theorem blockOf_edge : (blockOf s).edge = s.edge := rfl

/-- Two states have the same block iff they agree on its three fields. -/
theorem blockOf_eq_iff (s t : State) :
    blockOf s = blockOf t ↔ s.buf = t.buf ∧ s.prev = t.prev ∧ s.edge = t.edge := by
  simp [blockOf]

@[simp] theorem blockOf_clearOutputs : blockOf s.clearOutputs = blockOf s := rfl
@[simp] theorem blockOf_takeWord : blockOf s.takeWord = blockOf s := rfl

@[simp] theorem txnRun_nil (c : Cfg) (st : Block) : txnRun c st [] = (st, []) := rfl

theorem txnRun_append (c : Cfg) (st : Block) (xs ys : List Event) :
    txnRun c st (xs ++ ys) =
      ((txnRun c (txnRun c st xs).1 ys).1, (txnRun c st xs).2 ++ (txnRun c (txnRun c st xs).1 ys).2) := by
  induction xs generalizing st with
  | nil => simp
  | cons x xs ih => simp [txnRun, ih]

@[simp] theorem acceptedOf_append (xs ys : List OutEvent) :
    acceptedOf (xs ++ ys) = acceptedOf xs ++ acceptedOf ys := by
  induction xs with
  | nil => rfl
  | cons x xs ih => cases x <;> simp [acceptedOf, ih]

@[simp] theorem presencesOf_append (xs ys : List OutEvent) :
    presencesOf (xs ++ ys) = presencesOf xs ++ presencesOf ys := by
  induction xs with
  | nil => rfl
  | cons x xs ih => cases x <;> simp [presencesOf, ih]

@[simp] theorem runOuts_zero : runOuts 0 s = .next (s, []) := rfl

/-- A run of one cycle more: the first step's outputs, then the rest of the run's. -/
theorem runOuts_succ {n : Nat} {s t u : State} {os : List OutEvent} (h : step s = .next t)
    (hr : runOuts n t = .next (u, os)) : runOuts (n + 1) s = .next (u, t.outs ++ os) := by
  simp [runOuts, h, hr]

@[simp] theorem wordsAhead_zero (ws : List CycleWord) : wordsAhead 0 ws = [] := rfl
@[simp] theorem wordsAhead_succ (n : Nat) (ws : List CycleWord) :
    wordsAhead (n + 1) ws = ws.headD 0 :: wordsAhead n ws.tail := rfl

end Sys2Proof.Safety
end

