-- ==== Sys2Proof/Tests/Slice0.lean ====
section
/-!
SUPPORT. Tests on small states: words written out from the spec's encodings, the spec's own test vectors
(95_test_vectors, named by their ids), ill-formed terms, and one witness for the hypotheses of each statement.
-/
namespace Sys2Proof.Tests

open Sys2Proof Sys2Proof.Machine Sys2Proof.Safety

/-- A state of the test vectors, `(buf, prev, edge)` with the configuration of 95_test_vectors. -/
def st (buf : List Byte) (prev : Dist) (edge : Edge) : State :=
  { State.reset with buf := buf, prev := prev, edge := edge }

/-- The same state with cycle words to come. -/
def stIn (buf : List Byte) (prev : Dist) (edge : Edge) (input : List CycleWord) : State :=
  { st buf prev edge with input := input }

/-- What a vector shows of an outcome: end state and outputs. -/
def view (o : Host.Outcome State Fault Refusal) : Option (List Byte × Dist × Edge × List OutEvent) :=
  match o with
  | .next t => some (t.buf, t.prev, t.edge, t.outs)
  | .fault _ => none
  | .refused _ => none

/-! ### Well-formedness -/

theorem test_illformed_frame_refused : (Instr.invalidFrame 0x59 0x59 0x64 0x00).wellFormed = false := by decide
theorem test_invalid_frame_wellformed : (Instr.invalidFrame 0x59 0x58 0x64 0x00).wellFormed = true := by decide
theorem test_illformed_depth_refused : ({ Cfg.default with fifoDepth := 4 } : Cfg).wellFormed = false := by decide
theorem test_smallest_depth_wellformed : ({ Cfg.default with fifoDepth := 5 } : Cfg).wellFormed = true := by decide

/-! ### Decoding (30_encoding R44, R47, R53), `rst tick rx_valid rx_data` and `b3 b2 b1 b0` bit by bit -/

theorem test_decode_reset : decodeCycle 0b1_0_0_00000000 = .reset := by decide
theorem test_decode_reset_ignores : decodeCycle 0b1_1_1_11111111 = .reset := by decide
theorem test_decode_idle_ignores : decodeCycle 0b0_0_0_11111111 = .idle := by decide
theorem test_decode_rx : decodeCycle 0b0_0_1_01100100 = .rxByte 0x64 := by decide
theorem test_decode_tick_ignores : decodeCycle 0b0_1_0_00000001 = .tick := by decide
theorem test_decode_tick_rx : decodeCycle 0b0_1_1_10000001 = .tickRx 0x81 := by decide
theorem test_decode_valid_frame :
    decodeFrameWord 0b00000001_00101100_01011001_01011001 = .validFrame 0x2C 0x01 := by decide
theorem test_decode_invalid_frame :
    decodeFrameWord 0b00000000_11001000_01011001_11011001 = .invalidFrame 0xD9 0x59 0xC8 0x00 := by decide
theorem test_decode_bytes_short : decodeBytes .frame32 [0x59, 0x59, 0x64] = .error .tooFewBytes := by decide
theorem test_decode_bytes_wide : decodeBytes .cycle [0x00, 0x08] = .error .notACycleWord := by decide
theorem test_decode_bytes_rest :
    decodeBytes .frame32 [0x59, 0x59, 0x64, 0x00, 0xAA] = .ok (.validFrame 0x64 0x00, [0xAA]) := by decide
theorem test_table_word_cycle : decodeTableWord 16 0x1BB = some (.rxByte 0xBB) := by decide
theorem test_table_word_frame : decodeTableWord 32 0x5959 = some (.validFrame 0x00 0x00) := by decide
theorem test_table_word_zero_frame : decodeTableWord 32 0 = some (.invalidFrame 0 0 0 0) := by decide

/-- 30_encoding R53 and P2: the six words of SAMPLE 150. -/
theorem test_sample_words :
    assemble (sampleEvents 150) = [0x159, 0x159, 0x196, 0x100, 0x100, 0x200] := by decide

/-! ### The events (95_test_vectors) -/

/-- RS-1. -/
theorem test_reset_clears : view (exec .reset (st [0x59, 0x59] 150 .present)) = some ([], 0, .unknown, []) := by
  decide

/-- RS-2: the byte 0xFF of the reset cycle is lost. -/
theorem test_reset_dominates_its_cycle :
    view (step (stIn [0x59, 0x59, 0x64, 0x00, 0x00] 0 .unknown [0x7FF])) = some ([], 0, .unknown, []) := by decide

/-- RX-6. -/
theorem test_idle_keeps : view (exec .idle (st [0x59] 7 .absent)) = some ([0x59], 7, .absent, []) := by decide

/-- RX-2. -/
theorem test_rx_appends :
    view (exec (.rxByte 0x64) (st [0x59, 0x59] 0 .unknown)) = some ([0x59, 0x59, 0x64], 0, .unknown, []) := by decide

/-- RX-5: a full buffer of depth 5 discards the byte. -/
theorem test_rx_full_discards :
    view (exec (.rxByte 0x08)
        { st [0x59, 0x59, 0x2C, 0x01, 0x07] 0 .unknown with cfg := { Cfg.default with fifoDepth := 5 } }) =
      some ([0x59, 0x59, 0x2C, 0x01, 0x07], 0, .unknown, []) := by decide

/-- G-4: four bytes do not meet the gate. -/
theorem test_tick_at_four_bytes :
    view (exec .tick (st [0x59, 0x59, 0x64, 0x00] 0 .unknown)) =
      some ([0x59, 0x59, 0x64, 0x00], 0, .unknown, []) := by decide

/-- G-9: the second frame is lost. -/
theorem test_tick_drops_backlog :
    view (exec .tick (st [0x59, 0x59, 0x64, 0x00, 0x59, 0x59, 0xC8, 0x00, 0x00] 0 .unknown)) =
      some ([], 100, .present, [.accepted 100, .presence 1]) := by decide

/-- TR-1: the byte survives the flush. -/
theorem test_tick_rx_keeps_byte :
    view (step (stIn [0x59, 0x59, 0x78, 0x00, 0x00] 0 .unknown [0x359])) =
      some ([0x59], 120, .present, [.accepted 120, .presence 1]) := by decide

/-- TR-2: the gate sees the four bytes without the new one. -/
theorem test_tick_rx_gate_sees_four :
    view (step (stIn [0x59, 0x59, 0x65, 0x00] 100 .present [0x300])) =
      some ([0x59, 0x59, 0x65, 0x00, 0x00], 100, .present, []) := by decide

/-- X-3: the byte order and the clamp; 200 is not below 200. -/
theorem test_valid_frame_clamps :
    view (exec (.validFrame 0x00 0x01) (st [] 0 .unknown)) =
      some ([], 200, .absent, [.accepted 200, .presence 0]) := by decide

/-- L1-4: with EPSILON 2 and prev 100, 101 is rejected. -/
theorem test_valid_frame_rejected :
    view (exec (.validFrame 0x65 0x00) (st [] 100 .present)) = some ([], 100, .present, []) := by decide

/-- S-3 through a TICK. -/
theorem test_bad_sync_tick :
    view (exec .tick (st [0x58, 0x59, 0xC8, 0x00, 0x00] 100 .present)) = some ([], 100, .present, []) := by decide

/-- S-2 as the frame row. -/
theorem test_invalid_frame :
    view (exec (.invalidFrame 0x59 0x58 0xC8 0x00) (st [0x59] 100 .present)) = some ([], 100, .present, []) := by
  decide

/-! ### Placing an instruction before the next step -/

theorem test_fetch_rx :
    view (step (State.reset.withFetchWord 16 0x164)) = some ([0x64], 0, .unknown, []) := by decide
theorem test_fetch_valid_frame :
    view (step (State.reset.withFetchWord 32 0x00645959)) =
      some ([], 100, .present, [.accepted 100, .presence 1]) := by decide
theorem test_fetch_invalid_frame :
    view (step (State.reset.withFetchWord 32 0)) = some ([], 0, .unknown, []) := by decide

/-! ### The consumer's value: N-1, N-4, N-9, N-10 -/

theorem test_map_value_inverted : mapValue 50 0 200 1 0 = 3 / 4 := by
  norm_num [mapValue, rangeDegenerate, affineMap, clampToRange]
theorem test_map_value_clamped : mapValue 250 0 200 1 0 = 0 := by
  norm_num [mapValue, rangeDegenerate, affineMap, clampToRange]
theorem test_map_value_guard : mapValue 3 0 (1 / 100000) 7 9 = 7 := by
  norm_num [mapValue, rangeDegenerate]
theorem test_map_value_narrow : mapValue (1 / 10000) 0 (2 / 10000) 0 1 = 1 / 2 := by
  norm_num [mapValue, rangeDegenerate, affineMap, clampToRange, abs_of_neg]

/-! ### Witnesses: a concrete case of the hypotheses of each statement, one per clause -/

theorem test_witness_decodeOfEncode :
    (Instr.tickRx 0xFF).wellFormed = true ∧ encodeCycle (.tickRx 0xFF) = some 0x3FF := by decide
theorem test_witness_cycleWordRows :
    ((0x7FF : CycleWord).getLsbD 10 = true) ∧
    ((0x0FF : CycleWord).getLsbD 10 = false ∧ (0x0FF : CycleWord).getLsbD 9 = false ∧
      (0x0FF : CycleWord).getLsbD 8 = false) ∧
    ((0x1FF : CycleWord).getLsbD 10 = false ∧ (0x1FF : CycleWord).getLsbD 9 = false ∧
      (0x1FF : CycleWord).getLsbD 8 = true) ∧
    ((0x2FF : CycleWord).getLsbD 10 = false ∧ (0x2FF : CycleWord).getLsbD 9 = true ∧
      (0x2FF : CycleWord).getLsbD 8 = false) ∧
    ((0x3FF : CycleWord).getLsbD 10 = false ∧ (0x3FF : CycleWord).getLsbD 9 = true ∧
      (0x3FF : CycleWord).getLsbD 8 = true) ∧
    Instr.reset.format = .cycle ∧ Instr.reset.row.covers ((0x7FF : CycleWord).setWidth 32) = true := by decide
theorem test_witness_frameSync :
    ((0x64_5959 : FrameWord).extractLsb' 0 16 = 0x5959) ∧ ((0x64_5958 : FrameWord).extractLsb' 0 16 ≠ 0x5959) := by
  decide
theorem test_witness_resetPresence :
    State.reset.cfg.presenceEn = true ∧
      view (exec (.validFrame 0x02 0x00) State.reset) = some ([], 2, .present, [.accepted 2, .presence 1]) := by
  decide
theorem test_witness_idleWords :
    ∀ w ∈ ([0x000, 0x0FF] : List CycleWord), w.extractLsb' 8 3 = 0b000 := by decide
theorem test_witness_controlBits :
    (0x1BB : CycleWord).extractLsb' 8 3 = 0b001 ∧ (0x2FF : CycleWord).extractLsb' 8 3 = 0b010 ∧
      (0x300 : CycleWord).extractLsb' 8 3 = 0b011 := by decide
theorem test_witness_belowGate : (st [0x59, 0x59, 0x64, 0x00] 0 .unknown).buf.length ≤ 4 := by decide
theorem test_witness_frontFrame :
    (st [0x59, 0x58, 1, 2, 3] 0 .unknown).buf = 0x59 :: 0x58 :: 1 :: 2 :: 3 :: [] ∧
      ¬((0x59 : Byte) = 0x59 ∧ (0x58 : Byte) = 0x59) ∧
      (st [0x59, 0x59, 1, 2, 3] 0 .unknown).buf = 0x59 :: 0x59 :: 1 :: 2 :: 3 :: [] := by decide
theorem test_witness_tickRxClauses :
    (st [1, 2, 3, 4] 0 .unknown).buf.length ≤ 4 ∧ 4 < (st [1, 2, 3, 4, 5] 0 .unknown).buf.length ∧
      0 < (st [1, 2, 3, 4, 5] 0 .unknown).cfg.fifoDepth := by decide
theorem test_witness_validFrameClauses :
    (((101 : Nat) : Int) - (st [] 100 .present).prev.toNat).natAbs < (st [] 100 .present).cfg.epsilon.toNat ∧
      (st [] 100 .present).cfg.epsilon.toNat ≤ (((102 : Nat) : Int) - (st [] 100 .present).prev.toNat).natAbs ∧
      (199 : Nat) < (st [] 100 .present).cfg.maxDistance.toNat ∧
      (st [] 100 .present).cfg.maxDistance.toNat ≤ 200 ∧
      ({ Cfg.default with presenceEn := false } : Cfg).presenceEn = false ∧
      101 = min ((0x65 : Byte).toNat + (0x00 : Byte).toNat * 256) (st [] 100 .present).cfg.maxDistance.toNat := by
  decide
theorem test_witness_clampClauses :
    (200 : Dist) = Cfg.default.maxDistance ∧ (201 : Dist).toNat = Cfg.default.maxDistance.toNat + 1 ∧
      ({ Cfg.default with maxDistance := 0 } : Cfg).maxDistance = 0 ∧
      ({ Cfg.default with maxDistance := 65535 } : Cfg).maxDistance = 65535 := by decide
theorem test_witness_rejectClauses :
    delta 101 100 < Cfg.default.epsilon.toNat ∧ Cfg.default.epsilon.toNat ≤ delta 98 100 ∧
      (1 : Dist).toNat < State.reset.cfg.epsilon.toNat ∧ State.reset.prev = 0 ∧
      1 ≤ Cfg.default.epsilon.toNat ∧
      clampDistance Cfg.default (rawDistance 0xFF 0x00) = clampDistance Cfg.default (rawDistance 0x00 0x01) := by
  decide
theorem test_witness_repeatedFrame :
    ∃ t, exec (.validFrame 0xFF 0x00) State.reset = .next t ∧ t.prev = 200 ∧ t.cfg = State.reset.cfg :=
  ⟨_, rfl, by decide, by decide⟩
theorem test_witness_isThereClauses :
    (199 : Dist).toNat + 1 = Cfg.default.maxDistance.toNat ∧ (200 : Dist) = clampDistance Cfg.default 201 := by
  decide
/-- d = 199 with Present and 1, and d = 200 with Absent and 0, meet the hypotheses, each with a state that makes a
transition and one that makes none. -/
theorem test_witness_presenceClauses :
    (((199 : Dist).toNat < (st [] 0 .present).cfg.maxDistance.toNat → Edge.present = .present ∧ (1 : PresBit) = 1) ∧
      ((st [] 0 .present).cfg.maxDistance.toNat ≤ (199 : Dist).toNat → Edge.present = .absent ∧ (1 : PresBit) = 0) ∧
      (st [] 0 .unknown).edge = .unknown ∧ (st [] 0 .present).edge = .present) ∧
    (((200 : Dist).toNat < (st [] 0 .present).cfg.maxDistance.toNat → Edge.absent = .present ∧ (0 : PresBit) = 1) ∧
      ((st [] 0 .present).cfg.maxDistance.toNat ≤ (200 : Dist).toNat → Edge.absent = .absent ∧ (0 : PresBit) = 0) ∧
      (st [] 0 .present).edge ≠ .absent ∧ (st [] 0 .absent).edge = .absent) := by decide
theorem test_witness_stepRuns :
    (stIn [] 0 .unknown [0x159]).input = 0x159 :: [] ∧ State.reset.input = [] := by decide
theorem test_witness_acceptingStep :
    ∃ t, step (stIn [0x59, 0x59, 0x64, 0x00, 0x00] 0 .unknown [0x200]) = .next t ∧ t.distValid = true ∧
      rstBit (stIn [0x59, 0x59, 0x64, 0x00, 0x00] 0 .unknown [0x200]).nextWord = false :=
  ⟨_, rfl, by decide, by decide⟩
theorem test_witness_quietStep :
    ∃ t, step (stIn [0x59] 100 .present [0x159]) = .next t ∧ t.distValid = false ∧
      rstBit (stIn [0x59] 100 .present [0x159]).nextWord = false ∧ (stIn [0x59] 100 .present [0x159]).edge ≠ .unknown :=
  ⟨_, rfl, by decide, by decide, by decide⟩
theorem test_witness_strobes :
    rstBit (stIn [] 0 .unknown [0x600]).nextWord = true ∧ tickBit (stIn [] 0 .unknown [0x1FF]).nextWord = false := by
  decide
theorem test_witness_normalizeClauses :
    Cfg.default.normalize = false ∧ ({ Cfg.default with normalize := true } : Cfg).normalize = true ∧
      ∃ t, step State.reset = .next t := ⟨by decide, by decide, _, rfl⟩

/-- A state that meets the invariant, on the boundary of the clamp, with both strobes up, and a step from it. -/
theorem test_witness_invariant :
    Inv { stIn [1, 2, 3, 4, 5] 200 .absent [0x200] with
      distValid := true, distData := 200, presValid := true, presValue := 0 } ∧
    ∃ t, step { stIn [1, 2, 3, 4, 5] 200 .absent [0x200] with
      distValid := true, distData := 200, presValid := true, presValue := 0 } = .next t :=
  ⟨⟨by decide, by decide, by decide, by decide, fun _ => .inr (by decide), by decide, by decide⟩, _, rfl⟩
theorem test_witness_resetFree :
    resetFree 3 (stIn [0x59, 0x59, 0x64, 0x00] 0 .unknown [0x100, 0x200]) := by
  unfold resetFree; decide
theorem test_witness_disabledDetector :
    ∃ s s' : State, s.cfg.presenceEn = true ∧ s'.cfg = { s.cfg with presenceEn := false } ∧ s'.buf = s.buf ∧
      s'.prev = s.prev ∧ s'.input = s.input ∧ s.buf = [0x59, 0x59, 0x64, 0x00, 0x00] ∧ s.input = [0x200] :=
  ⟨stIn [0x59, 0x59, 0x64, 0x00, 0x00] 0 .unknown [0x200],
    { stIn [0x59, 0x59, 0x64, 0x00, 0x00] 0 .unknown [0x200] with
      cfg := { Cfg.default with presenceEn := false } },
    by decide, by decide, by decide, by decide, by decide, by decide, by decide⟩
theorem test_witness_noTick :
    resetFree 2 (stIn [1] 0 .unknown [0x102, 0x0FF]) ∧
      (stIn [1] 0 .unknown [0x102, 0x0FF]).buf.length ≤ (stIn [1] 0 .unknown [0x102, 0x0FF]).cfg.fifoDepth ∧
      ∀ w ∈ wordsAhead 2 (stIn [1] 0 .unknown [0x102, 0x0FF]).input, tickBit w = false := by
  unfold resetFree; decide
theorem test_witness_sample :
    (stIn [] 0 .unknown (assemble (sampleEvents 100) ++ [0x000])).buf = [] ∧
      5 ≤ (stIn [] 0 .unknown (assemble (sampleEvents 100) ++ [0x000])).cfg.fifoDepth ∧
      (stIn [] 0 .unknown (assemble (sampleEvents 100) ++ [0x000])).input = assemble (sampleEvents 100) ++ [0x000] := by
  decide
theorem test_witness_mapRanges :
    (¬|(0 : Rat) - 1 / 10000| < 1 / 10000) ∧ |(0 : Rat) - 1 / 100000| < 1 / 10000 := by
  norm_num [abs_of_neg]
theorem test_witness_normalization :
    (200 : Dist).toNat ≤ Cfg.default.maxDistance.toNat ∧ 1 ≤ Cfg.default.maxDistance.toNat ∧
      (0 : Dist).toNat ≤ ({ Cfg.default with maxDistance := 0 } : Cfg).maxDistance.toNat ∧
      ({ Cfg.default with maxDistance := 0 } : Cfg).maxDistance.toNat = 0 := by decide

end Sys2Proof.Tests
end

section
/-!
PROOFS, family 00_scope: every event answers a next state, and a run of the cycle-level machine is the fold of the
transaction-level step (00_scope R10). The refinement is built one stage at a time: the data path's values in exact
arithmetic, presence step, filter, TICK, byte, cycle, run.
-/
namespace Sys2Proof.Machine

open Sys2Proof

variable (s : State)

/-! ### The data path in exact arithmetic -/

/-- 30_encoding R48: the assembled distance as a number. -/
theorem rawDistance_toNat (lo hi : Byte) : (rawDistance lo hi).toNat = lo.toNat + hi.toNat * 256 := by
  have hlo := lo.isLt
  rw [rawDistance, BitVec.toNat_append, ← Nat.shiftLeft_add_eq_or_of_lt hlo, Nat.shiftLeft_eq]
  omega

theorem clampDistance_toNat (c : Cfg) (raw : Dist) :
    (clampDistance c raw).toNat = min raw.toNat c.maxDistance.toNat := by
  unfold clampDistance
  split
  · rename_i h
    exact (Nat.min_eq_left (BitVec.le_def.1 h)).symm
  · rename_i h
    exact (Nat.min_eq_right (Nat.le_of_not_le fun h' => h (BitVec.le_def.2 h'))).symm

theorem delta_eq_natAbs (d prev : Dist) : delta d prev = ((d.toNat : Int) - prev.toNat).natAbs := by
  unfold delta
  split <;> rename_i h <;> rw [BitVec.le_def] at h <;> omega

theorem isThere_eq_ite (c : Cfg) (d : Dist) :
    isThere c d = if d.toNat < c.maxDistance.toNat then 1 else 0 := by
  by_cases h : d.toNat < c.maxDistance.toNat <;> simp [isThere, BitVec.lt_def, h]

theorem isTransition_iff (old new : Edge) : isTransition old new = true ↔ old = .unknown ∨ old ≠ new := by
  simp [isTransition]

/-! ### What a step leaves unchanged -/

theorem State.outs_eq_nil_iff : s.outs = [] ↔ s.distValid = false ∧ s.presValid = false := by
  simp [State.outs]

/-- A TICK keeps the configuration and the coming words. -/
theorem tickEffect_frame : (tickEffect s).cfg = s.cfg ∧ (tickEffect s).input = s.input := by
  rcases tickEffect_cases s with ⟨_, h⟩ | ⟨b0, b1, b2, b3, _, _, _, h⟩ <;> rw [h]
  · exact ⟨rfl, rfl⟩
  · rcases frameEffect_cases s.flush b0 b1 b2 b3 with ⟨_, h⟩ | ⟨_, h⟩ <;> rw [h] <;> simp

@[simp] theorem tickEffect_cfg : (tickEffect s).cfg = s.cfg := (tickEffect_frame s).1
@[simp] theorem tickEffect_input : (tickEffect s).input = s.input := (tickEffect_frame s).2

/-! ### No event stops the machine (60_exceptions R87) -/

theorem exec_answers (i : Instr) : ∃ t, exec i s = .next t := by
  cases i with
  | reset => exact ⟨_, exec_reset s⟩
  | idle => exact ⟨_, exec_idle s⟩
  | rxByte b => exact ⟨_, exec_rxByte s b⟩
  | tick => exact ⟨_, exec_tick s⟩
  | tickRx b => exact ⟨_, exec_tickRx s b⟩
  | validFrame lo hi => exact ⟨_, exec_validFrame s lo hi⟩
  | invalidFrame b0 b1 b2 b3 => exact ⟨_, exec_invalidFrame s b0 b1 b2 b3⟩

theorem step_answers : ∃ t, step s = .next t := exec_answers s.takeWord (decodeCycle s.nextWord)

theorem step_unique {s t u : State} (ht : step s = .next t) (hu : step s = .next u) : t = u :=
  Host.Outcome.next.inj (ht.symm.trans hu)

end Sys2Proof.Machine

namespace Sys2Proof.Safety

open Sys2Proof Sys2Proof.Machine

variable (s : State)

/-! ### The block's part after a flush, and RESET -/

theorem blockOf_flush : blockOf s.flush = { blockOf s with buf := [] } := rfl

theorem resetEffect_refines : (blockOf (resetEffect s), []) = txnStep s.cfg (blockOf s) .reset := rfl

/-! ### Stage by stage, the cycle-level machine is the transaction-level one -/

/-- The transaction's presence function, told with the machine's own bit and transition test. -/
theorem txnPresence_toNat (c : Cfg) (e : Edge) (d : Dist) :
    txnPresence c e d.toNat =
      if isTransition e (Edge.ofBit (isThere c d)) then
        (Edge.ofBit (isThere c d), [.presence (isThere c d)])
      else (e, []) := by
  by_cases h : d.toNat < c.maxDistance.toNat <;> simp [txnPresence, isThere_eq_ite, isTransition_iff, h]

theorem presenceStep_refines (d : Dist) (h : s.presValid = false) :
    blockOf (presenceStep d s) = { blockOf s with edge := (txnPresence s.cfg s.edge d.toNat).1 } ∧
      (presenceStep d s).outs = s.outs ++ (txnPresence s.cfg s.edge d.toNat).2 := by
  rw [txnPresence_toNat]
  rcases presenceStep_cases s d with ⟨ht, hp⟩ | ⟨ht, hp⟩ <;> rw [hp]
  · simp [ht, blockOf, State.outs, h]
  · simp [ht, blockOf]

theorem acceptDistance_refines (d : Dist) (h : s.presValid = false) (hd : s.cfg.epsilon.toNat ≤ delta d s.prev) :
    (blockOf (acceptDistance d s), (acceptDistance d s).outs) = txnFilter s.cfg (blockOf s) d.toNat := by
  have hd' : ¬((d.toNat : Int) - s.prev.toNat).natAbs < s.cfg.epsilon.toNat := by
    rw [← delta_eq_natAbs]; omega
  rcases acceptDistance_cases s d with ⟨he, ha⟩ | ⟨he, ha⟩ <;> rw [ha]
  · obtain ⟨hb, ho⟩ := presenceStep_refines { s with prev := d, distValid := true, distData := d } d h
    rw [hb, ho]
    simp [txnFilter, hd', he, blockOf, State.outs, h]
  · simp [txnFilter, hd', he, blockOf, State.outs, h]

theorem filterDistance_refines (d : Dist) (h : s.outs = []) :
    (blockOf (filterDistance d s), (filterDistance d s).outs) = txnFilter s.cfg (blockOf s) d.toNat := by
  rcases filterDistance_cases s d with ⟨hd, hf⟩ | ⟨hd, hf⟩ <;> rw [hf]
  · rw [delta_eq_natAbs] at hd
    simp [txnFilter, hd, h]
  · exact acceptDistance_refines s d ((State.outs_eq_nil_iff s).1 h).2 hd

theorem txnStep_tick_of_length_le (c : Cfg) (st : Block) (h : st.buf.length ≤ 4) :
    txnStep c st .tick = (st, []) := by
  simp only [txnStep]
  split
  · rename_i hb
    simp only [hb, List.length_cons] at h
    omega
  · rfl

theorem txnStep_tick_of_buf {c : Cfg} {st : Block} {b0 b1 b2 b3 b4 : Byte} {rest : List Byte}
    (h : st.buf = b0 :: b1 :: b2 :: b3 :: b4 :: rest) :
    txnStep c st .tick =
      if b0 = 0x59 ∧ b1 = 0x59 then
        txnFilter c { st with buf := [] } (min (b2.toNat + b3.toNat * 256) c.maxDistance.toNat)
      else ({ st with buf := [] }, []) := by
  simp only [txnStep, h]

theorem tickEffect_refines (h : s.outs = []) :
    (blockOf (tickEffect s), (tickEffect s).outs) = txnStep s.cfg (blockOf s) .tick := by
  rcases tickEffect_cases s with ⟨hl, ht⟩ | ⟨b0, b1, b2, b3, b4, rest, hb, ht⟩ <;> rw [ht]
  · rw [h, txnStep_tick_of_length_le _ _ hl]
  · simp only [txnStep_tick_of_buf (st := blockOf s) hb, ← syncMatches_iff, ← blockOf_flush]
    rcases frameEffect_cases s.flush b0 b1 b2 b3 with ⟨hs, hf⟩ | ⟨hs, hf⟩ <;> rw [hf]
    · simp [hs, h]
    · rw [filterDistance_refines s.flush _ h, clampDistance_toNat, rawDistance_toNat, if_pos hs, State.flush_cfg]

theorem receive_refines (b : Byte) :
    (blockOf (s.receive b), []) = txnStep s.cfg (blockOf s) (.rxByte b) := by
  rcases s.receive_cases b with ⟨hl, hr⟩ | ⟨hl, hr⟩ <;> rw [hr]
  · simp [txnStep, hl, blockOf]
  · simp [txnStep, Nat.not_lt.2 hl]

/-! ### One cycle -/

/-- 30_encoding R44: the event sequence of a word, told with its fields: RESET alone, or the TICK and then the
byte. -/
theorem eventsOf_eq_fields (w : CycleWord) :
    eventsOf w = if rstBit w then [.reset] else
      (if tickBit w then [.tick] else []) ++ if rxValidBit w then [.rxByte (rxData w)] else [] := by
  have hdata : rxData w = w.setWidth 8 := by ext; simp [rxData]
  rw [hdata, rstBit, tickBit, rxValidBit, eventsOf]
  cases w.getLsbD 10 <;> cases w.getLsbD 9 <;> cases w.getLsbD 8 <;> rfl

/-- Two runs one after the other: the outputs concatenate. -/
theorem eq_txnRun_append {c : Cfg} {st st1 st2 : Block} {xs ys : List Event} {os1 os2 : List OutEvent}
    (h1 : (st1, os1) = txnRun c st xs) (h2 : (st2, os2) = txnRun c st1 ys) :
    (st2, os1 ++ os2) = txnRun c st (xs ++ ys) := by
  rw [txnRun_append, ← h1, ← h2]

@[simp] theorem txnRun_singleton (c : Cfg) (st : Block) (ev : Event) : txnRun c st [ev] = txnStep c st ev := by
  simp [txnRun]

/-- 30_encoding R44: the event of a word, on any state, runs the word's event sequence and keeps the configuration
and the coming words. -/
theorem exec_decodeCycle_refines (w : CycleWord) :
    ∃ t, exec (decodeCycle w) s = .next t ∧ (blockOf t, t.outs) = txnRun s.cfg (blockOf s) (eventsOf w) ∧
      t.cfg = s.cfg ∧ t.input = s.input := by
  have htick : (blockOf (tickEffect s.clearOutputs), (tickEffect s.clearOutputs).outs) =
      txnRun s.cfg (blockOf s) [.tick] := by
    rw [txnRun_singleton]
    exact tickEffect_refines s.clearOutputs (State.outs_clearOutputs s)
  have hbyte (t : State) :
      (blockOf (t.receive (rxData w)), []) = txnRun t.cfg (blockOf t) [.rxByte (rxData w)] := by
    rw [txnRun_singleton]
    exact receive_refines t (rxData w)
  rw [eventsOf_eq_fields]
  rcases decodeCycle_cases w with ⟨hr, hd⟩ | ⟨hr, ht, hv, hd⟩ | ⟨hr, ht, hv, hd⟩ | ⟨hr, ht, hv, hd⟩ |
    ⟨hr, ht, hv, hd⟩ <;> rw [hd]
  · refine ⟨_, exec_reset s, ?_, rfl, rfl⟩
    rw [State.outs_resetEffect, State.outs_clearOutputs, resetEffect_refines]
    simp [hr]
  · exact ⟨_, exec_idle s, by simp [hr, ht, hv], rfl, rfl⟩
  · refine ⟨_, exec_rxByte s _, ?_, by simp, by simp⟩
    rw [State.outs_receive, State.outs_clearOutputs, hbyte]
    simp [hr, ht, hv]
  · exact ⟨_, exec_tick s, by simp [hr, ht, hv, htick], by simp, by simp⟩
  · refine ⟨_, exec_tickRx s _, ?_, by simp, by simp⟩
    have hlast := hbyte (tickEffect s.clearOutputs)
    rw [tickEffect_cfg, State.clearOutputs_cfg] at hlast
    simpa [hr, ht, hv] using eq_txnRun_append htick hlast

/-- One cycle is the fold of the transaction step over the events of its word, and takes that word from the
host's list. -/
theorem step_refines :
    ∃ t, step s = .next t ∧ (blockOf t, t.outs) = txnRun s.cfg (blockOf s) (eventsOf s.nextWord) ∧
      t.cfg = s.cfg ∧ t.input = s.input.tail :=
  exec_decodeCycle_refines s.takeWord s.nextWord

/-! ### Runs -/

/-- 00_scope R10: from one cycle to a run, one cycle at a time. -/
theorem runOuts_refines (n : Nat) (s : State) :
    ∃ t os, runOuts n s = .next (t, os) ∧
      (blockOf t, os) = txnRun s.cfg (blockOf s) ((wordsAhead n s.input).flatMap eventsOf) ∧
      t.cfg = s.cfg ∧ t.input = s.input.drop n := by
  induction n generalizing s with
  | zero => exact ⟨s, [], rfl, rfl, rfl, rfl⟩
  | succ n ih =>
    obtain ⟨t, hstep, hblock, hcfg, hinput⟩ := step_refines s
    obtain ⟨u, os, hrun, hfold, hcfg', hinput'⟩ := ih t
    rw [hcfg, hinput] at hfold
    exact ⟨u, t.outs ++ os, runOuts_succ hstep hrun, eq_txnRun_append hblock hfold, hcfg'.trans hcfg,
      by rw [hinput', hinput, List.drop_tail]⟩

end Sys2Proof.Safety

namespace Sys2Proof.Proofs

open Sys2Proof Sys2Proof.Machine Sys2Proof.Safety

/-- Settles O31, by induction on the number of cycles, each cycle being the fold over its word's events. -/
theorem runIsTheTransactionFold : Obligations.RunIsTheTransactionFold :=
  runOuts_refines

/-- Settles O24: each arm of exec answers a next state, and step is a function. -/
theorem everyEventAnswersANextState : Obligations.EveryEventAnswersANextState :=
  ⟨fun i s => exec_answers s i, step_answers, fun _ _ _ => step_unique⟩

end Sys2Proof.Proofs
end

section
/-!
PROOFS, family 10_state: what every step keeps, what a run without RESET says of `prev` and the presence state, and
what no step reads. A step without RESET is either quiet or accepts one distance; the invariant, the last accepted
distance and the alternation of Presence events all follow from that one case split.
-/
namespace Sys2Proof.Machine

open Sys2Proof

variable (s : State)

/-! ### Small facts of the clamp and the presence state -/

theorem clampDistance_le (c : Cfg) (raw : Dist) : clampDistance c raw ≤ c.maxDistance := by
  rw [BitVec.le_def, clampDistance_toNat]
  exact Nat.min_le_right _ _

theorem Edge.ofBit_ne_unknown (p : PresBit) : Edge.ofBit p ≠ .unknown := by
  unfold Edge.ofBit
  split <;> decide

/-- A presence step towards a bit fires iff the detector's state is not already that bit's, Unknown included. -/
theorem isTransition_ofBit (e : Edge) (p : PresBit) :
    isTransition e (Edge.ofBit p) = decide (e ≠ Edge.ofBit p) := by
  rw [Bool.eq_iff_iff, decide_eq_true_iff, isTransition_iff, or_iff_right_of_imp]
  rintro rfl
  exact (Edge.ofBit_ne_unknown p).symm

/-! ### What a TICK and a received byte do to the buffer -/

theorem tickEffect_of_length_le (h : s.buf.length ≤ 4) : tickEffect s = s := by
  rcases tickEffect_cases s with ⟨_, ht⟩ | ⟨b0, b1, b2, b3, b4, rest, hb, _⟩
  · exact ht
  · simp only [hb, List.length_cons] at h
    omega

theorem tickEffect_of_buf {b0 b1 b2 b3 b4 : Byte} {rest : List Byte}
    (h : s.buf = b0 :: b1 :: b2 :: b3 :: b4 :: rest) : tickEffect s = frameEffect b0 b1 b2 b3 s.flush := by
  rcases tickEffect_cases s with ⟨hl, _⟩ | ⟨c0, c1, c2, c3, c4, rest', hb, ht⟩
  · simp only [h, List.length_cons] at hl
    omega
  · simp only [h, List.cons.injEq] at hb
    obtain ⟨rfl, rfl, rfl, rfl, rfl, rfl⟩ := hb
    exact ht

@[simp] theorem frameEffect_buf (b0 b1 b2 b3 : Byte) : (frameEffect b0 b1 b2 b3 s).buf = s.buf := by
  rcases frameEffect_cases s b0 b1 b2 b3 with ⟨_, h⟩ | ⟨_, h⟩ <;> simp [h]

theorem tickEffect_buf : (tickEffect s).buf = s.buf ∨ (tickEffect s).buf = [] := by
  rcases tickEffect_cases s with ⟨_, h⟩ | ⟨b0, b1, b2, b3, b4, rest, _, h⟩ <;> rw [h]
  · exact .inl rfl
  · exact .inr (by simp)

theorem tickEffect_fits (h : s.buf.length ≤ s.cfg.fifoDepth) :
    (tickEffect s).buf.length ≤ (tickEffect s).cfg.fifoDepth := by
  rcases tickEffect_buf s with hb | hb <;> simp [hb, h]

theorem State.receive_fits (b : Byte) (h : s.buf.length ≤ s.cfg.fifoDepth) :
    (s.receive b).buf.length ≤ (s.receive b).cfg.fifoDepth := by
  rcases s.receive_cases b with ⟨hl, hr⟩ | ⟨_, hr⟩ <;> rw [hr]
  · simpa using hl
  · exact h

/-- 10_state R13: a step keeps the buffer within FIFO_DEPTH. -/
theorem step_fits {s t : State} (h : step s = .next t) (hs : s.buf.length ≤ s.cfg.fifoDepth) :
    t.buf.length ≤ t.cfg.fifoDepth := by
  have htick := tickEffect_fits s.takeWord.clearOutputs hs
  rw [step] at h
  rcases decodeCycle_cases s.nextWord with ⟨_, hd⟩ | ⟨_, _, _, hd⟩ | ⟨_, _, _, hd⟩ | ⟨_, _, _, hd⟩ |
    ⟨_, _, _, hd⟩ <;> rw [hd] at h <;> obtain rfl := Host.Outcome.next.inj h
  · exact Nat.zero_le _
  · exact hs
  · exact s.takeWord.clearOutputs.receive_fits _ hs
  · exact htick
  · exact State.receive_fits _ _ htick

/-! ### NORMALIZE is not read (10_state R21) -/

/-- The same state with the configuration's NORMALIZE set to `b`. -/
def State.withNormalize (b : Bool) (s : State) : State :=
  { s with cfg := { s.cfg with normalize := b } }

theorem State.receive_withNormalize (b : Bool) (x : Byte) :
    (s.withNormalize b).receive x = (s.receive x).withNormalize b :=
  (apply_ite (State.withNormalize b) (s.count < s.cfg.fifoDepth) (s.enqueue x) s).symm

theorem presenceStep_withNormalize (b : Bool) (d : Dist) :
    presenceStep d (s.withNormalize b) = (presenceStep d s).withNormalize b := by
  unfold presenceStep
  rw [apply_ite (State.withNormalize b)]
  rfl

theorem acceptDistance_withNormalize (b : Bool) (d : Dist) :
    acceptDistance d (s.withNormalize b) = (acceptDistance d s).withNormalize b := by
  unfold acceptDistance
  rw [apply_ite (State.withNormalize b), ← presenceStep_withNormalize]
  rfl

theorem filterDistance_withNormalize (b : Bool) (d : Dist) :
    filterDistance d (s.withNormalize b) = (filterDistance d s).withNormalize b := by
  unfold filterDistance
  rw [apply_ite (State.withNormalize b), ← acceptDistance_withNormalize]
  rfl

theorem frameEffect_withNormalize (b : Bool) (b0 b1 b2 b3 : Byte) :
    frameEffect b0 b1 b2 b3 (s.withNormalize b) = (frameEffect b0 b1 b2 b3 s).withNormalize b := by
  unfold frameEffect validFrameEffect
  rw [apply_ite (State.withNormalize b), ← filterDistance_withNormalize]
  rfl

theorem tickEffect_withNormalize (b : Bool) :
    tickEffect (s.withNormalize b) = (tickEffect s).withNormalize b := by
  rcases tickEffect_cases s with ⟨hl, h⟩ | ⟨b0, b1, b2, b3, b4, rest, hb, h⟩ <;> rw [h]
  · exact tickEffect_of_length_le _ hl
  · rw [tickEffect_of_buf (s.withNormalize b) hb]
    exact frameEffect_withNormalize s.flush b b0 b1 b2 b3

theorem exec_withNormalize (b : Bool) (i : Instr) :
    ∃ t, exec i s = .next t ∧ exec i (s.withNormalize b) = .next (t.withNormalize b) := by
  cases i with
  | reset => exact ⟨_, exec_reset s, rfl⟩
  | idle => exact ⟨_, exec_idle s, rfl⟩
  | rxByte x => exact ⟨_, exec_rxByte s x, congrArg _ (s.clearOutputs.receive_withNormalize b x)⟩
  | tick => exact ⟨_, exec_tick s, congrArg _ (tickEffect_withNormalize s.clearOutputs b)⟩
  | tickRx x =>
    refine ⟨_, exec_tickRx s x, ?_⟩
    rw [← State.receive_withNormalize, ← tickEffect_withNormalize]
    rfl
  | validFrame lo hi =>
    exact ⟨_, exec_validFrame s lo hi, congrArg _ (filterDistance_withNormalize s.clearOutputs.flush b _)⟩
  | invalidFrame b0 b1 b2 b3 => exact ⟨_, exec_invalidFrame s b0 b1 b2 b3, rfl⟩

end Sys2Proof.Machine

namespace Sys2Proof.Safety

open Sys2Proof Sys2Proof.Machine

variable (s : State)

/-! ### What a step without RESET can do -/

theorem ofBit_isThere (c : Cfg) (d : Dist) : Edge.ofBit (isThere c d) = edgeOf c d := by
  unfold edgeOf isThere
  split <;> simp [*]

/-- The presence state from `s` to `t`: it stays and nothing is shown, or it changes and its new value's bit is
shown (43_presence_detector R80, R82). -/
def PresenceMoves (s t : State) : Prop :=
  (t.presValid = false ∧ t.edge = s.edge) ∨
    (t.presValid = true ∧ t.edge = Edge.ofBit t.presValue ∧ s.edge ≠ t.edge)

/-- `t` has the `prev` and `edge` of `s` and emits nothing. -/
structure Quiet (s t : State) : Prop where
  prev : t.prev = s.prev
  edge : t.edge = s.edge
  distValid : t.distValid = false
  presValid : t.presValid = false

/-- `t` is what accepting `d` leaves of `s` outside the buffer (42_distance_filter R71, R72). -/
structure Accepts (d : Dist) (s t : State) : Prop where
  clamped : d ≤ s.cfg.maxDistance
  farEnough : s.cfg.epsilon.toNat ≤ delta d s.prev
  prev : t.prev = d
  distValid : t.distValid = true
  distData : t.distData = d
  presence : PresenceMoves s t
  detector : s.cfg.presenceEn = true → t.edge = edgeOf s.cfg d
  noDetector : s.cfg.presenceEn = false → t.presValid = false

theorem Quiet.refl {s : State} (h : s.outs = []) : Quiet s s :=
  have ⟨hd, hp⟩ := s.outs_eq_nil_iff.1 h
  ⟨rfl, rfl, hd, hp⟩

theorem Quiet.receive {s t : State} (h : Quiet s t) (b : Byte) : Quiet s (t.receive b) := by
  rw [t.receive_frame b]
  exact { h with }

theorem Accepts.receive {d : Dist} {s t : State} (h : Accepts d s t) (b : Byte) :
    Accepts d s (t.receive b) := by
  rw [t.receive_frame b]
  exact { h with }

theorem Quiet.presence {s t : State} (h : Quiet s t) : PresenceMoves s t := .inl ⟨h.presValid, h.edge⟩

theorem acceptDistance_accepts {s : State} {d : Dist} (h : s.presValid = false) (hmax : d ≤ s.cfg.maxDistance)
    (hd : s.cfg.epsilon.toNat ≤ delta d s.prev) : Accepts d s (acceptDistance d s) := by
  rcases acceptDistance_cases s d with ⟨he, ha⟩ | ⟨he, ha⟩ <;> rw [ha]
  · rcases presenceStep_cases { s with prev := d, distValid := true, distData := d } d with
      ⟨ht, hp⟩ | ⟨ht, hp⟩ <;> rw [hp]
    · exact ⟨hmax, hd, rfl, rfl, rfl, .inr ⟨rfl, rfl, by simpa [isTransition_ofBit] using ht⟩,
        fun _ => ofBit_isThere s.cfg d, by simp [he]⟩
    · have hsame : s.edge = Edge.ofBit (isThere s.cfg d) := by
        simpa [isTransition_ofBit] using ht
      exact ⟨hmax, hd, rfl, rfl, rfl, .inl ⟨h, rfl⟩, fun _ => hsame.trans (ofBit_isThere s.cfg d), fun _ => h⟩
  · exact ⟨hmax, hd, rfl, rfl, rfl, .inl ⟨h, rfl⟩, by simp [he], fun _ => h⟩

theorem tickEffect_quiet_or_accepts (h : s.outs = []) :
    Quiet s (tickEffect s) ∨ (4 < s.buf.length ∧ ∃ d, Accepts d s (tickEffect s)) := by
  rcases tickEffect_cases s with ⟨_, ht⟩ | ⟨b0, b1, b2, b3, b4, rest, hb, ht⟩ <;> rw [ht]
  · exact .inl (.refl h)
  have hquiet : Quiet s s.flush := { Quiet.refl h with }
  rcases frameEffect_cases s.flush b0 b1 b2 b3 with ⟨_, hf⟩ | ⟨_, hf⟩ <;> rw [hf]
  · exact .inl hquiet
  rcases filterDistance_cases s.flush (clampDistance s.cfg (rawDistance b2 b3)) with ⟨_, hd⟩ | ⟨hfar, hd⟩
  · rw [State.flush_cfg, hd]
    exact .inl hquiet
  · rw [State.flush_cfg, hd]
    refine .inr ⟨by simp [hb], clampDistance s.cfg (rawDistance b2 b3), ?_⟩
    exact { acceptDistance_accepts (s := s.flush) hquiet.presValid (clampDistance_le s.cfg _) hfar with }

/-- A step is a RESET, or is quiet, or is a TICK above the gate that accepts a distance. -/
theorem step_cases {s t : State} (h : step s = .next t) :
    (rstBit s.nextWord = true ∧ t = resetEffect s.takeWord.clearOutputs) ∨
    (rstBit s.nextWord = false ∧ Quiet s t) ∨
    (rstBit s.nextWord = false ∧ tickBit s.nextWord = true ∧ 4 < s.buf.length ∧ ∃ d, Accepts d s t) := by
  have hquiet : Quiet s s.takeWord.clearOutputs := ⟨rfl, rfl, rfl, rfl⟩
  have htick : Quiet s (tickEffect s.takeWord.clearOutputs) ∨
      (4 < s.buf.length ∧ ∃ d, Accepts d s (tickEffect s.takeWord.clearOutputs)) := by
    rcases tickEffect_quiet_or_accepts s.takeWord.clearOutputs (State.outs_clearOutputs _) with hq | ⟨hl, d, ha⟩
    · exact .inl { hq with }
    · exact .inr ⟨hl, d, { ha with }⟩
  rw [step] at h
  rcases decodeCycle_cases s.nextWord with ⟨hr, hd⟩ | ⟨hr, _, _, hd⟩ | ⟨hr, _, _, hd⟩ | ⟨hr, hk, _, hd⟩ |
    ⟨hr, hk, _, hd⟩ <;> rw [hd] at h <;> obtain rfl := Host.Outcome.next.inj h
  · exact .inl ⟨hr, rfl⟩
  · exact .inr (.inl ⟨hr, hquiet⟩)
  · exact .inr (.inl ⟨hr, hquiet.receive _⟩)
  · exact .inr (htick.imp (⟨hr, ·⟩) (⟨hr, hk, ·⟩))
  · exact .inr (htick.imp (fun hq => ⟨hr, hq.receive _⟩) fun ⟨hl, d, ha⟩ => ⟨hr, hk, hl, d, ha.receive _⟩)

theorem step_cfg {s t : State} (h : step s = .next t) : t.cfg = s.cfg := by
  obtain ⟨u, hu, _, hcfg, _⟩ := step_refines s
  rw [step_unique h hu, hcfg]

theorem step_input {s t : State} (h : step s = .next t) : t.input = s.input.tail := by
  obtain ⟨u, hu, _, _, hinput⟩ := step_refines s
  rw [step_unique h hu, hinput]

theorem step_presence {s t : State} (hr : rstBit s.nextWord = false) (h : step s = .next t) :
    PresenceMoves s t := by
  rcases step_cases h with ⟨hr', _⟩ | ⟨_, hq⟩ | ⟨_, _, _, d, ha⟩
  · simp [hr] at hr'
  · exact hq.presence
  · exact ha.presence

theorem PresenceMoves.edge_ne_unknown {s t : State} (h : PresenceMoves s t) (hs : s.edge ≠ .unknown) :
    t.edge ≠ .unknown := by
  rcases h with ⟨_, he⟩ | ⟨_, he, _⟩ <;> rw [he]
  · exact hs
  · exact Edge.ofBit_ne_unknown _

/-! ### The invariant -/

theorem Quiet.inv {s t : State} (h : Quiet s t) (hs : Inv s) (hcfg : t.cfg = s.cfg)
    (hfits : t.buf.length ≤ t.cfg.fifoDepth) : Inv t where
  depth := hcfg ▸ hs.depth
  bufFits := hfits
  prevClamped := by rw [h.prev, hcfg]; exact hs.prevClamped
  noDetector he := ⟨h.edge.trans (hs.noDetector (hcfg ▸ he)).1, h.presValid⟩
  detector he := by rw [h.edge, h.prev, hcfg]; exact hs.detector (hcfg ▸ he)
  acceptedIsPrev hv := by simp [h.distValid] at hv
  presenceIsEdge hv := by simp [h.presValid] at hv

theorem Accepts.inv {d : Dist} {s t : State} (h : Accepts d s t) (hs : Inv s) (hcfg : t.cfg = s.cfg)
    (hfits : t.buf.length ≤ t.cfg.fifoDepth) : Inv t where
  depth := hcfg ▸ hs.depth
  bufFits := hfits
  prevClamped := by rw [h.prev, hcfg]; exact h.clamped
  noDetector he := by
    rw [hcfg] at he
    have hp := h.noDetector he
    rcases h.presence with ⟨_, hedge⟩ | ⟨hp', _⟩
    · exact ⟨hedge.trans (hs.noDetector he).1, hp⟩
    · simp [hp] at hp'
  detector he := by
    rw [hcfg] at he ⊢
    rw [h.prev]
    exact .inr (h.detector he)
  acceptedIsPrev _ := h.distData.trans h.prev.symm
  presenceIsEdge hv := by
    rcases h.presence with ⟨hp, _⟩ | ⟨_, hedge, _⟩
    · simp [hp] at hv
    · exact ⟨h.distValid, hedge⟩

theorem resetEffect_inv {s : State} (hs : Inv s) : Inv (resetEffect s.takeWord.clearOutputs) where
  depth := hs.depth
  bufFits := Nat.zero_le _
  prevClamped := BitVec.le_def.2 (Nat.zero_le _)
  noDetector he := ⟨(if_neg (Bool.eq_false_iff.1 he)).trans (hs.noDetector he).1, rfl⟩
  detector he := .inl ⟨if_pos he, rfl⟩
  acceptedIsPrev hv := absurd hv Bool.false_ne_true
  presenceIsEdge hv := absurd hv Bool.false_ne_true

/-! ### Runs without RESET -/

theorem acceptedOf_outs : acceptedOf s.outs = if s.distValid then [s.distData] else [] := by
  unfold State.outs
  cases s.distValid <;> cases s.presValid <;> rfl

theorem presencesOf_outs : presencesOf s.outs = if s.presValid then [s.presValue] else [] := by
  unfold State.outs
  cases s.distValid <;> cases s.presValid <;> rfl

/-- A relation between a run's ends and its outputs holds of every run without RESET if it holds of the empty run
and a step without RESET put before a run keeps it. -/
theorem runOuts_induction_of_resetFree {P : State → List OutEvent → State → Prop} (nil : ∀ s, P s [] s)
    (cons : ∀ s t os u, rstBit s.nextWord = false → step s = .next t → P t os u → P s (t.outs ++ os) u)
    (n : Nat) (s : State) (hs : resetFree n s) : ∃ t os, runOuts n s = .next (t, os) ∧ P s os t := by
  induction n generalizing s with
  | zero => exact ⟨s, [], rfl, nil s⟩
  | succ n ih =>
    obtain ⟨t, hstep⟩ := step_answers s
    obtain ⟨hfirst, hrest⟩ := List.forall_mem_cons.1 hs
    rw [← step_input hstep] at hrest
    obtain ⟨u, os, hrun, hP⟩ := ih t hrest
    exact ⟨u, t.outs ++ os, runOuts_succ hstep hrun, cons s t os u hfirst hstep hP⟩

theorem prev_eq_getLast_cons {s t u : State} {os : List OutEvent} (hr : rstBit s.nextWord = false)
    (h : step s = .next t) (hrun : u.prev = (acceptedOf os).getLast?.getD t.prev) :
    u.prev = (acceptedOf (t.outs ++ os)).getLast?.getD s.prev := by
  rw [acceptedOf_append, acceptedOf_outs, hrun]
  rcases step_cases h with ⟨hr', _⟩ | ⟨_, hq⟩ | ⟨_, _, _, d, ha⟩
  · simp [hr] at hr'
  · simp [hq.distValid, hq.prev]
  · simp [ha.distValid, ha.distData, ha.prev, List.getLast?_cons]

/-- Along a run from `s` to `u` with the Presence events `ps`: they alternate, the first is news to `s`, and `u` is
in the state last shown. -/
structure Alternates (s : State) (ps : List PresBit) (u : State) : Prop where
  chain : List.IsChain (fun a b : PresBit => a ≠ b) ps
  first : ∀ p ∈ ps.head?, s.edge ≠ Edge.ofBit p
  last : u.edge = (ps.getLast?.map Edge.ofBit).getD s.edge

theorem Alternates.cons {s t u : State} {os : List OutEvent} (h : PresenceMoves s t)
    (hrun : Alternates t (presencesOf os) u) : Alternates s (presencesOf (t.outs ++ os)) u := by
  obtain ⟨hchain, hfirst, hlast⟩ := hrun
  rw [presencesOf_append, presencesOf_outs]
  rcases h with ⟨hp, he⟩ | ⟨hp, he, hne⟩
  · rw [he] at hfirst hlast
    simpa [hp] using Alternates.mk hchain hfirst hlast
  · rw [he] at hfirst hlast hne
    simp only [hp, if_true, List.singleton_append]
    refine ⟨List.isChain_cons.2 ⟨fun p hmem heq => hfirst p hmem (congrArg _ heq), hchain⟩, ?_, ?_⟩
    · simpa using hne
    · rw [hlast, List.getLast?_cons, Option.map_some, Option.getD_some, Option.getD_map]

end Sys2Proof.Safety

namespace Sys2Proof.Proofs

open Sys2Proof Sys2Proof.Machine Sys2Proof.Safety

/-- Settles O29, by what a step can do: RESET clears what the invariant speaks of, a quiet step keeps it, and an
accept writes `prev`, the ports and the presence state together. -/
theorem stepKeepsTheInvariant : Obligations.StepKeepsTheInvariant := by
  intro s t hs h
  have hcfg := step_cfg h
  have hfits := step_fits h hs.bufFits
  rcases step_cases h with ⟨_, rfl⟩ | ⟨_, hq⟩ | ⟨_, _, _, d, ha⟩
  · exact resetEffect_inv hs
  · exact hq.inv hs hcfg hfits
  · exact ha.inv hs hcfg hfits

/-- Settles O32: each step without RESET keeps it, by induction on the run. -/
theorem lastAcceptedDistanceIsPrev : Obligations.LastAcceptedDistanceIsPrev :=
  runOuts_induction_of_resetFree (P := fun s os t => t.prev = (acceptedOf os).getLast?.getD s.prev)
    (fun _ => rfl) fun _ _ _ _ => prev_eq_getLast_cons

/-- Settles O34: a step without RESET moves the presence state exactly when it shows it, by induction on the run. -/
theorem presenceEventsAlternate : Obligations.PresenceEventsAlternate := by
  intro n s hs
  obtain ⟨t, os, hrun, hchain, hfirst, hlast⟩ :=
    runOuts_induction_of_resetFree (P := fun s os t => Alternates s (presencesOf os) t)
      (fun _ => ⟨.nil, by simp [presencesOf], rfl⟩)
      (fun _ _ _ _ hr h => Alternates.cons (step_presence hr h)) n s hs
  exact ⟨t, os, hrun, hchain, hfirst, hlast⟩

/-- Settles O26: a step without RESET is quiet or accepts a distance. -/
theorem prevAndEdgeChangeOnlyWithAnAccept : Obligations.PrevAndEdgeChangeOnlyWithAnAccept := by
  intro s t hr h
  have hknown := (step_presence hr h).edge_ne_unknown
  rcases step_cases h with ⟨hr', _⟩ | ⟨_, hq⟩ | ⟨_, htick, hlen, d, ha⟩
  · simp [hr] at hr'
  · have hout : t.outs = [] := t.outs_eq_nil_iff.2 ⟨hq.distValid, hq.presValid⟩
    exact ⟨fun _ => ⟨hq.prev, hq.edge, hout⟩, by simp [hq.distValid], hknown⟩
  · obtain rfl := ha.prev
    refine ⟨by simp [ha.distValid], fun _ => ⟨htick, hlen, ha.distData, ?_, BitVec.le_def.1 ha.clamped, ?_⟩, hknown⟩
    · rw [← delta_eq_natAbs]
      exact ha.farEnough
    · simp [State.outs, ha.distValid, ha.distData]

/-- Settles O27: RESET and every quiet step leave the cleared ports, and only a TICK can accept. -/
theorem strobesLastOneCycle : Obligations.StrobesLastOneCycle := by
  intro s hw
  obtain ⟨t, h⟩ := step_answers s
  refine ⟨t, h, ?_⟩
  rcases step_cases h with ⟨_, rfl⟩ | ⟨_, hq⟩ | ⟨hr, htick, _⟩
  · exact ⟨rfl, rfl⟩
  · exact ⟨hq.distValid, hq.presValid⟩
  · simp [hr, htick] at hw

/-- Settles O28: setting NORMALIZE commutes with every event; only the consumer's value reads it. -/
theorem normalizeIsNotReadByTheBlock : Obligations.NormalizeIsNotReadByTheBlock :=
  ⟨fun _ _ => step_cfg, fun s b => exec_withNormalize s.takeWord b (decodeCycle s.nextWord),
    fun c d => ⟨fun h => by simp [outputValue, h], fun h => by simp [outputValue, normalizedValue, h]⟩⟩

/-- Settles O22, code by code. -/
theorem edgeCodeIsTheTwoBitCode : Obligations.EdgeCodeIsTheTwoBitCode :=
  ⟨rfl, rfl, rfl, fun e => by cases e <;> rfl, rfl, fun e => by cases e <;> decide⟩

/-- Settles O25: the table's values stand in `State.reset`, and `exec_reset` gives RESET's from any state. -/
theorem resetStateIsTheResetTable : Obligations.ResetStateIsTheResetTable :=
  ⟨rfl, rfl, rfl, rfl, rfl, rfl, rfl, rfl, rfl, rfl, rfl,
    fun s => ⟨_, exec_reset s, rfl, rfl, rfl, fun h => if_pos h, rfl, rfl, rfl⟩⟩

/-- Settles O30: after reset nothing was accepted and the buffer is empty. -/
theorem invariantHoldsAtReset : Obligations.InvariantHoldsAtReset where
  depth := by decide
  bufFits := Nat.zero_le _
  prevClamped := BitVec.le_def.2 (Nat.zero_le _)
  noDetector _ := ⟨rfl, rfl⟩
  detector _ := .inl ⟨rfl, rfl⟩
  acceptedIsPrev hv := absurd hv Bool.false_ne_true
  presenceIsEdge hv := absurd hv Bool.false_ne_true

end Sys2Proof.Proofs
end

section
/-!
PROOFS, family 20_memory: the receive buffer is first in, first out (20_memory R34). A cycle without TICK and RESET
is at most one RX_BYTE, so by the refinement of runs a stretch of such cycles is a list of RX_BYTE events, which
fills the buffer in order up to FIFO_DEPTH.
-/
namespace Sys2Proof.Safety

open Sys2Proof Sys2Proof.Machine

/-! ### Cycles without TICK and RESET deliver bytes only (30_encoding R44) -/

theorem eventsOf_of_noTick {w : CycleWord} (hr : rstBit w = false) (ht : tickBit w = false) :
    eventsOf w = if rxValidBit w then [.rxByte (rxData w)] else [] := by
  simp [eventsOf_eq_fields, hr, ht]

theorem bytesOf_cons (w : CycleWord) (ws : List CycleWord) :
    bytesOf (w :: ws) = (if rxValidBit w then [rxData w] else []) ++ bytesOf ws := by
  cases h : rxValidBit w <;> simp [bytesOf, h]

theorem flatMap_eventsOf_of_noTick {ws : List CycleWord} (hr : ∀ w ∈ ws, rstBit w = false)
    (ht : ∀ w ∈ ws, tickBit w = false) : ws.flatMap eventsOf = (bytesOf ws).map .rxByte := by
  induction ws with
  | nil => rfl
  | cons w ws ih =>
    obtain ⟨hrw, hrws⟩ := List.forall_mem_cons.1 hr
    obtain ⟨htw, htws⟩ := List.forall_mem_cons.1 ht
    rw [List.flatMap_cons, eventsOf_of_noTick hrw htw, ih hrws htws, bytesOf_cons, List.map_append]
    cases rxValidBit w <;> rfl

/-! ### A list of RX_BYTE events (40_input_events R54) -/

/-- Bytes alone fill the buffer in order up to FIFO_DEPTH and change nothing else: while there is room a byte goes to
the end, and a full buffer keeps its oldest bytes. -/
theorem txnRun_rxBytes {c : Cfg} {st : Block} (bs : List Byte) (h : st.buf.length ≤ c.fifoDepth) :
    txnRun c st (bs.map .rxByte) = ({ st with buf := (st.buf ++ bs).take c.fifoDepth }, []) := by
  induction bs generalizing st with
  | nil => simp [List.take_of_length_le h]
  | cons b bs ih =>
    rcases Nat.lt_or_eq_of_le h with hroom | hfull
    · have hstep : txnStep c st (.rxByte b) = ({ st with buf := st.buf ++ [b] }, []) := if_pos hroom
      have hfits : (st.buf ++ [b]).length ≤ c.fifoDepth := by simpa using hroom
      simp [txnRun, hstep, ih (st := { st with buf := st.buf ++ [b] }) hfits]
    · have hstep : txnStep c st (.rxByte b) = (st, []) := if_neg hfull.not_lt
      simp [txnRun, hstep, ih h, List.take_left' hfull]

end Sys2Proof.Safety

namespace Sys2Proof.Proofs

open Sys2Proof Sys2Proof.Machine Sys2Proof.Safety

/-- Settles O36: the run is the transaction-level run of its delivered bytes, each an RX_BYTE. -/
theorem bytesWaitWhileNoTickComes : Obligations.BytesWaitWhileNoTickComes := by
  intro n s hfits hreset htick
  obtain ⟨t, os, hrun, hfold, _, _⟩ := runOuts_refines n s
  rw [flatMap_eventsOf_of_noTick hreset htick, txnRun_rxBytes _ hfits] at hfold
  obtain ⟨hblock, hout⟩ := Prod.mk.inj hfold
  exact ⟨t, os, hrun, hout, congrArg Block.prev hblock, congrArg Block.edge hblock, congrArg Block.buf hblock⟩

end Sys2Proof.Proofs
end

section
/-!
PROOFS, family 30_encoding: the two encoded inputs. The cycle word is its three control bits and its byte
(30_encoding R43), the frame word its four bytes (R46); encoder, decoder and the rows of the opcode table are
compared field by field, and the events R53 writes as SAMPLE d run through the refinement of runs.
-/
namespace Sys2Proof

/-! ### The fields of a frame word (30_encoding R46) -/

section FrameWord

variable (b0 b1 b2 b3 : Byte)

@[simp] theorem frameWord_byte0 : (frameWord b0 b1 b2 b3).extractLsb' 0 8 = b0 :=
  BitVec.extractLsb'_append_eq_right

@[simp] theorem frameWord_byte1 : (frameWord b0 b1 b2 b3).extractLsb' 8 8 = b1 :=
  calc (frameWord b0 b1 b2 b3).extractLsb' 8 8
    _ = (b3 ++ b2 ++ b1).extractLsb' 0 8 := BitVec.extractLsb'_append_eq_of_le (by decide)
    _ = b1 := BitVec.extractLsb'_append_eq_right

@[simp] theorem frameWord_byte2 : (frameWord b0 b1 b2 b3).extractLsb' 16 8 = b2 :=
  calc (frameWord b0 b1 b2 b3).extractLsb' 16 8
    _ = (b3 ++ b2 ++ b1).extractLsb' 8 8 := BitVec.extractLsb'_append_eq_of_le (by decide)
    _ = (b3 ++ b2).extractLsb' 0 8 := BitVec.extractLsb'_append_eq_of_le (by decide)
    _ = b2 := BitVec.extractLsb'_append_eq_right

@[simp] theorem frameWord_byte3 : (frameWord b0 b1 b2 b3).extractLsb' 24 8 = b3 :=
  calc (frameWord b0 b1 b2 b3).extractLsb' 24 8
    _ = (b3 ++ b2 ++ b1).extractLsb' 16 8 := BitVec.extractLsb'_append_eq_of_le (by decide)
    _ = (b3 ++ b2).extractLsb' 8 8 := BitVec.extractLsb'_append_eq_of_le (by decide)
    _ = b3 := BitVec.extractLsb'_append_eq_left

@[simp] theorem decodeFrameWord_frameWord :
    decodeFrameWord (frameWord b0 b1 b2 b3) = decodeFrame b0 b1 b2 b3 := by
  simp [decodeFrameWord]

end FrameWord

/-- The sync field of a frame word is its first two bytes. -/
theorem extractLsb'_syncField (W : FrameWord) :
    W.extractLsb' 0 16 = W.extractLsb' 8 8 ++ W.extractLsb' 0 8 :=
  (BitVec.extractLsb'_append_extractLsb'_eq_extractLsb' (len₁ := 8) (len₂ := 8) rfl).symm

/-- The distance field of a frame word is its last two bytes. -/
theorem extractLsb'_distanceField (W : FrameWord) :
    W.extractLsb' 16 16 = W.extractLsb' 24 8 ++ W.extractLsb' 16 8 :=
  (BitVec.extractLsb'_append_extractLsb'_eq_extractLsb' (len₁ := 8) (len₂ := 8) rfl).symm

/-! ### The fields of a cycle word (30_encoding R43) -/

section CycleWord

variable (rst tick rxValid : Bool) (data : Byte)

@[simp] theorem rstBit_cycleWord : rstBit (cycleWord rst tick rxValid data) = rst := by
  simp only [rstBit, cycleWord, BitVec.getLsbD_append]
  simp

@[simp] theorem tickBit_cycleWord : tickBit (cycleWord rst tick rxValid data) = tick := by
  simp only [tickBit, cycleWord, BitVec.getLsbD_append]
  simp

@[simp] theorem rxValidBit_cycleWord : rxValidBit (cycleWord rst tick rxValid data) = rxValid := by
  simp only [rxValidBit, cycleWord, BitVec.getLsbD_append]
  simp

@[simp] theorem rxData_cycleWord : rxData (cycleWord rst tick rxValid data) = data :=
  BitVec.extractLsb'_append_eq_right

end CycleWord

/-- A cycle word is its four ports. -/
theorem cycleWord_fields (w : CycleWord) : cycleWord (rstBit w) (tickBit w) (rxValidBit w) (rxData w) = w := by
  refine BitVec.eq_of_getLsbD_eq fun i hi => ?_
  simp only [cycleWord, rstBit, tickBit, rxValidBit, rxData, BitVec.getLsbD_append]
  interval_cases i <;> simp

/-- Cycle words are equal when their ports are. -/
theorem cycleWord_ext_iff {w w' : CycleWord} :
    w = w' ↔ rstBit w = rstBit w' ∧ tickBit w = tickBit w' ∧ rxValidBit w = rxValidBit w' ∧
      rxData w = rxData w' := by
  constructor
  · rintro rfl
    exact ⟨rfl, rfl, rfl, rfl⟩
  · rintro ⟨hr, ht, hv, hd⟩
    rw [← cycleWord_fields w, hr, ht, hv, hd, cycleWord_fields]

/-! ### Words as bytes, the low byte first (30_encoding R45; log entry 7) -/

theorem littleEndian_two {n : Nat} (w : BitVec n) :
    littleEndian 2 w.toNat = [w.extractLsb' 0 8, w.extractLsb' 8 8] := by
  simp [littleEndian, BitVec.extractLsb', Nat.shiftRight_eq_div_pow]

theorem littleEndian_four {n : Nat} (w : BitVec n) :
    littleEndian 4 w.toNat =
      [w.extractLsb' 0 8, w.extractLsb' 8 8, w.extractLsb' 16 8, w.extractLsb' 24 8] := by
  simp [littleEndian, BitVec.extractLsb', Nat.shiftRight_eq_div_pow, Nat.div_div_eq_div_mul]

theorem decodeBytes_cycleWord (w : CycleWord) (rest : List Byte) :
    decodeBytes .cycle (littleEndian 2 (w.setWidth 32).toNat ++ rest) = .ok (decodeCycle w, rest) := by
  have hbytes : littleEndian 2 (w.setWidth 32).toNat = [w.extractLsb' 0 8, w.extractLsb' 8 8] := by
    rw [littleEndian_two, BitVec.extractLsb'_setWidth_of_le (by decide),
      BitVec.extractLsb'_setWidth_of_le (by decide)]
  have hunused : (w.extractLsb' 8 8).toNat < 8 := by
    have := w.isLt
    rw [BitVec.extractLsb'_toNat, Nat.shiftRight_eq_div_pow]
    omega
  have hcontrol : (w.extractLsb' 8 8).extractLsb' 0 3 = w.extractLsb' 8 3 := by
    apply BitVec.eq_of_toNat_eq
    simp
  have hword : w.extractLsb' 8 3 ++ w.extractLsb' 0 8 = w :=
    (BitVec.extractLsb'_append_extractLsb'_eq_extractLsb' rfl).trans BitVec.extractLsb'_eq_self
  rw [hbytes, List.cons_append, List.cons_append, List.nil_append, decodeBytes, if_pos hunused, hcontrol, hword]

theorem decodeBytes_frameWord (W : FrameWord) (rest : List Byte) :
    decodeBytes .frame32 (littleEndian 4 W.toNat ++ rest) = .ok (decodeFrameWord W, rest) := by
  rw [littleEndian_four]
  rfl

/-! ### The encoder's words decode to their events (30_encoding R44, R47) -/

theorem encodeCycle_of_encodeWord {i : Instr} {w : CycleWord} (h : i.format = .cycle)
    (hw : encodeWord i = w.setWidth 32) : encodeCycle i = some w := by
  simp [encodeCycle, h, hw, BitVec.extractLsb'_setWidth_of_le]

/-- An event of the CYCLE format is a cycle word that decodes to it, zero-extended in the table's numbering. -/
theorem exists_encodeCycle_of_cycle {i : Instr} (h : i.format = .cycle) :
    ∃ w, encodeCycle i = some w ∧ encodeWord i = w.setWidth 32 ∧ decodeCycle w = i := by
  cases i with
  | reset | idle | rxByte | tick | tickRx =>
    exact ⟨_, encodeCycle_of_encodeWord h rfl, rfl, by simp [decodeCycle]⟩
  | validFrame | invalidFrame => cases h

theorem decodeFrame_of_sync {b0 b1 : Byte} (b2 b3 : Byte) (h : b0 = 0x59 ∧ b1 = 0x59) :
    decodeFrame b0 b1 b2 b3 = .validFrame b2 b3 :=
  if_pos ((Machine.syncMatches_iff b0 b1).2 h)

theorem decodeFrame_of_not_sync {b0 b1 : Byte} (b2 b3 : Byte) (h : ¬(b0 = 0x59 ∧ b1 = 0x59)) :
    decodeFrame b0 b1 b2 b3 = .invalidFrame b0 b1 b2 b3 :=
  if_neg (mt (Machine.syncMatches_iff b0 b1).1 h)

/-- A well-formed frame's word decodes to it; an INVALID_FRAME with the sync bytes is not well formed. -/
theorem decodeFrameWord_encodeWord {i : Instr} (hf : i.format = .frame32) (hwf : i.wellFormed = true) :
    decodeFrameWord (encodeWord i) = i := by
  cases i with
  | validFrame lo hi => exact (decodeFrameWord_frameWord ..).trans (decodeFrame_of_sync lo hi ⟨rfl, rfl⟩)
  | invalidFrame b0 b1 b2 b3 =>
    have hsync : ¬(b0 = 0x59 ∧ b1 = 0x59) := not_and_or.2 (by simpa [Instr.wellFormed] using hwf)
    exact (decodeFrameWord_frameWord ..).trans (decodeFrame_of_not_sync b2 b3 hsync)
  | reset | idle | rxByte | tick | tickRx => cases hf

theorem decodeBytes_encode {i : Instr} (hi : i.wellFormed = true) (rest : List Byte) :
    decodeBytes i.format (encode i ++ rest) = .ok (i, rest) := by
  unfold encode
  cases hf : i.format with
  | cycle =>
    obtain ⟨w, _, hword, hdecode⟩ := exists_encodeCycle_of_cycle hf
    rw [hword, Format.byteCount, decodeBytes_cycleWord, hdecode]
  | frame32 => rw [Format.byteCount, Config.frameLen, decodeBytes_frameWord, decodeFrameWord_encodeWord hf hi]

/-- The table word of an event, in as many bits as its format has, is read in that format (log entry 7). -/
theorem tableFormat_encodeWord (i : Instr) :
    tableFormat (8 * i.format.byteCount) (encodeWord i).toNat = i.format := by
  cases hf : i.format with
  | cycle =>
    obtain ⟨w, _, hword, _⟩ := exists_encodeCycle_of_cycle hf
    have hlt : (w.setWidth 32).toNat < 2048 := by
      rw [BitVec.toNat_setWidth_of_le (by decide)]
      exact w.isLt
    rw [hword]
    exact if_pos ⟨by decide, hlt⟩
  | frame32 => exact if_neg fun h => absurd h.1 (by decide)

theorem decodeTableWord_encodeWord {i : Instr} (hi : i.wellFormed = true) :
    decodeTableWord (8 * i.format.byteCount) (encodeWord i).toNat = some i := by
  have hbytes := decodeBytes_encode hi []
  rw [List.append_nil, encode] at hbytes
  rw [decodeTableWord, tableFormat_encodeWord, hbytes]

theorem decodeCycle_of_encodeCycle {i : Instr} {w : CycleWord} (h : encodeCycle i = some w) :
    decodeCycle w = i := by
  cases hf : i.format with
  | cycle =>
    obtain ⟨w', hw', _, hdecode⟩ := exists_encodeCycle_of_cycle hf
    rwa [Option.some.inj (h.symm.trans hw')]
  | frame32 => simp [encodeCycle, hf] at h

/-! ### A cycle word is exactly one row of the table (30_encoding R44) -/

section CycleRows

variable {w : CycleWord}

theorem decodeCycle_eq_reset (hr : rstBit w = true) : decodeCycle w = .reset := if_pos hr

theorem decodeCycle_eq_idle (hr : rstBit w = false) (ht : tickBit w = false) (hv : rxValidBit w = false) :
    decodeCycle w = .idle := by
  simp [decodeCycle, hr, ht, hv]

theorem decodeCycle_eq_rxByte (hr : rstBit w = false) (ht : tickBit w = false) (hv : rxValidBit w = true) :
    decodeCycle w = .rxByte (rxData w) := by
  simp [decodeCycle, hr, ht, hv]

theorem decodeCycle_eq_tick (hr : rstBit w = false) (ht : tickBit w = true) (hv : rxValidBit w = false) :
    decodeCycle w = .tick := by
  simp [decodeCycle, hr, ht, hv]

theorem decodeCycle_eq_tickRx (hr : rstBit w = false) (ht : tickBit w = true) (hv : rxValidBit w = true) :
    decodeCycle w = .tickRx (rxData w) := by
  simp [decodeCycle, hr, ht, hv]

/-- Masking a cycle word with selected control ports compares those ports. -/
theorem cycleWord_masked_iff (r r' t t' v v' : Bool) :
    w.setWidth 32 &&& (cycleWord r' t' v' 0).setWidth 32 = (cycleWord r t v 0).setWidth 32 ↔
      (rstBit w && r') = r ∧ (tickBit w && t') = t ∧ (rxValidBit w && v') = v := by
  have hinj {x y : CycleWord} : x.setWidth 32 = y.setWidth 32 ↔ x = y :=
    ⟨fun h => by simpa [BitVec.setWidth_setWidth_of_le] using congrArg (BitVec.setWidth 11) h, congrArg _⟩
  have hrst (m : CycleWord) : rstBit (w &&& m) = (rstBit w && rstBit m) := BitVec.getLsbD_and
  have htick (m : CycleWord) : tickBit (w &&& m) = (tickBit w && tickBit m) := BitVec.getLsbD_and
  have hvalid (m : CycleWord) : rxValidBit (w &&& m) = (rxValidBit w && rxValidBit m) := BitVec.getLsbD_and
  have hdata (m : CycleWord) : rxData (w &&& m) = rxData w &&& rxData m := BitVec.extractLsb'_and
  rw [← BitVec.setWidth_and, hinj, cycleWord_ext_iff, hrst, htick, hvalid, hdata]
  simp

theorem reset_covers_iff : Instr.reset.row.covers (w.setWidth 32) = true ↔ rstBit w = true :=
  beq_iff_eq.trans ((cycleWord_masked_iff true true false false false false).trans (by simp))

/-- The rows below RESET compare all three control ports. -/
theorem control_covers_iff (t v : Bool) (p : Nat) :
    TableRow.covers ⟨(cycleWord false t v 0).setWidth 32, 0x700, p⟩ (w.setWidth 32) = true ↔
      rstBit w = false ∧ tickBit w = t ∧ rxValidBit w = v :=
  beq_iff_eq.trans ((cycleWord_masked_iff false true t true v true).trans (by simp))

/-- A word's row covers it. -/
theorem decodeCycle_row_covers (w : CycleWord) : (decodeCycle w).row.covers (w.setWidth 32) = true := by
  rcases Machine.decodeCycle_cases w with ⟨hr, hd⟩ | ⟨hr, ht, hv, hd⟩ | ⟨hr, ht, hv, hd⟩ | ⟨hr, ht, hv, hd⟩ |
    ⟨hr, ht, hv, hd⟩ <;> rw [hd]
  · exact reset_covers_iff.2 hr
  · exact (control_covers_iff false false 2).2 ⟨hr, ht, hv⟩
  · exact (control_covers_iff false true 2).2 ⟨hr, ht, hv⟩
  · exact (control_covers_iff true false 2).2 ⟨hr, ht, hv⟩
  · exact (control_covers_iff true true 2).2 ⟨hr, ht, hv⟩

/-- No CYCLE row but a word's own covers it: RESET's mask and the other rows' masks exclude each other too. -/
theorem row_eq_of_covers {j : Instr} (hj : j.format = .cycle) (h : j.row.covers (w.setWidth 32) = true) :
    j.row = (decodeCycle w).row := by
  cases j with
  | reset => rw [decodeCycle_eq_reset (reset_covers_iff.1 h)]
  | idle =>
    obtain ⟨hr, ht, hv⟩ := (control_covers_iff false false 2).1 h
    rw [decodeCycle_eq_idle hr ht hv]
  | rxByte b =>
    obtain ⟨hr, ht, hv⟩ := (control_covers_iff false true 2).1 h
    rw [decodeCycle_eq_rxByte hr ht hv]
    rfl
  | tick =>
    obtain ⟨hr, ht, hv⟩ := (control_covers_iff true false 2).1 h
    rw [decodeCycle_eq_tick hr ht hv]
  | tickRx b =>
    obtain ⟨hr, ht, hv⟩ := (control_covers_iff true true 2).1 h
    rw [decodeCycle_eq_tickRx hr ht hv]
    rfl
  | validFrame | invalidFrame => cases hj

theorem decodeCycle_format (w : CycleWord) : (decodeCycle w).format = .cycle := by
  rcases Machine.decodeCycle_cases w with ⟨_, hd⟩ | ⟨_, _, _, hd⟩ | ⟨_, _, _, hd⟩ | ⟨_, _, _, hd⟩ | ⟨_, _, _, hd⟩ <;>
    rw [hd] <;> rfl

theorem priority_eq_one_iff {j : Instr} (hj : j.format = .cycle) : j.row.priority = 1 ↔ j = .reset := by
  cases j with
  | validFrame | invalidFrame => cases hj
  | _ => simp [Instr.row]

end CycleRows

/-! ### The sync check (30_encoding R47) -/

theorem syncField_frameWord (b0 b1 b2 b3 : Byte) : (frameWord b0 b1 b2 b3).extractLsb' 0 16 = b1 ++ b0 := by
  rw [extractLsb'_syncField, frameWord_byte0, frameWord_byte1]

/-- The sync field is compared in full, byte by byte. -/
theorem syncField_eq_iff (W : FrameWord) :
    W.extractLsb' 0 16 = 0x5959 ↔ W.extractLsb' 0 8 = 0x59 ∧ W.extractLsb' 8 8 = 0x59 := by
  rw [extractLsb'_syncField]
  constructor
  · intro h
    have hlow := congrArg (BitVec.extractLsb' 0 8) h
    have hhigh := congrArg (BitVec.extractLsb' 8 8) h
    rw [BitVec.extractLsb'_append_eq_right] at hlow
    rw [BitVec.extractLsb'_append_eq_left] at hhigh
    exact ⟨hlow, hhigh⟩
  · rintro ⟨h0, h1⟩
    rw [h0, h1]
    rfl

/-- The mask of the row VALID_FRAME selects the sync field. -/
theorem masked_eq_iff_syncField (W : FrameWord) :
    W &&& 0x0000FFFF = 0x00005959 ↔ W.extractLsb' 0 16 = 0x5959 := by
  rw [← BitVec.toNat_inj, ← BitVec.toNat_inj, BitVec.toNat_and, BitVec.extractLsb'_toNat, Nat.shiftRight_zero]
  exact iff_of_eq (congrArg (· = 0x5959) (Nat.and_two_pow_sub_one_eq_mod W.toNat 16))

end Sys2Proof

namespace Sys2Proof.Machine

/-! ### RawDistance (30_encoding R48) -/

theorem rawDistance_eq_sum (lo hi : Byte) : rawDistance lo hi = lo.setWidth 16 + hi.setWidth 16 * 256 := by
  have hlo := lo.isLt
  have hhi := hi.isLt
  apply BitVec.eq_of_toNat_eq
  rw [rawDistance_toNat]
  simp
  omega

theorem distanceField_frameWord (b0 b1 b2 b3 : Byte) :
    (frameWord b0 b1 b2 b3).extractLsb' 16 16 = rawDistance b2 b3 := by
  rw [extractLsb'_distanceField, frameWord_byte2, frameWord_byte3, rawDistance]

/-- The two bytes of a distance, low byte first, assemble to it. -/
theorem rawDistance_bytes (d : Dist) : rawDistance (d.extractLsb' 0 8) (d.extractLsb' 8 8) = d :=
  (BitVec.extractLsb'_append_extractLsb'_eq_extractLsb' rfl).trans BitVec.extractLsb'_eq_self

/-! ### One step by the host's list (30_encoding R43, R44) -/

variable {s : State}

theorem step_of_input_cons {w : CycleWord} {rest : List CycleWord} (h : s.input = w :: rest) :
    step s = exec (decodeCycle w) { s with input := rest } := by
  rw [step, State.nextWord, State.takeWord, h, List.headD_cons, List.tail_cons]

theorem step_of_input_nil (h : s.input = []) : step s = exec .idle s := by
  have htake : s.takeWord = s := by rw [State.takeWord, h, List.tail_nil, ← h]
  rw [step, State.nextWord, h, htake]
  rfl

end Sys2Proof.Machine

namespace Sys2Proof.Safety

open Sys2Proof.Machine

/-! ### The events of SAMPLE d (30_encoding R53) -/

theorem wordsAhead_append (ws rest : List CycleWord) : wordsAhead ws.length (ws ++ rest) = ws := by
  induction ws with
  | nil => rfl
  | cons w ws ih => simp [ih]

theorem encodeCycle_rxByte (b : Byte) : encodeCycle (.rxByte b) = some (cycleWord false false true b) :=
  encodeCycle_of_encodeWord rfl rfl

theorem encodeCycle_tick : encodeCycle .tick = some (cycleWord false true false 0) :=
  encodeCycle_of_encodeWord rfl rfl

theorem assemble_rxEvents (bs : List Byte) : assemble (rxEvents bs) = bs.map (cycleWord false false true) := by
  have hencode : encodeCycle ∘ Instr.rxByte = some ∘ cycleWord false false true := funext encodeCycle_rxByte
  rw [assemble, rxEvents, List.filterMap_map, hencode, List.filterMap_eq_map]

/-- The six words of `SAMPLE d`: the frame's bytes and a fifth one for the gate, then the TICK. -/
theorem assemble_sampleEvents (d : Dist) :
    assemble (sampleEvents d) =
      (frameBytesOf d ++ [0]).map (cycleWord false false true) ++ [cycleWord false true false 0] := by
  have hevents : sampleEvents d = rxEvents (frameBytesOf d ++ [0]) ++ [.tick] := rfl
  have htick : assemble [.tick] = [cycleWord false true false 0] := by simp [assemble, encodeCycle_tick]
  rw [hevents, assemble, List.filterMap_append, ← assemble, ← assemble, assemble_rxEvents, htick]

theorem flatMap_eventsOf_sample (d : Dist) :
    (assemble (sampleEvents d)).flatMap eventsOf = (frameBytesOf d ++ [0]).map .rxByte ++ [.tick] := by
  have hbyte (b : Byte) : eventsOf (cycleWord false false true b) = [.rxByte b] := by simp [eventsOf_eq_fields]
  have htick : eventsOf (cycleWord false true false 0) = [.tick] := by simp [eventsOf_eq_fields]
  rw [assemble_sampleEvents, List.flatMap_append, List.flatMap_map, List.flatMap_singleton, htick,
    List.map_eq_flatMap]
  simp only [hbyte]

/-! ### A valid frame in a TICK and as a row (41_frame_parser R58, R64) -/

theorem txnStep_tick_of_sync {c : Cfg} {st : Block} {lo hi b4 : Byte} {rest : List Byte}
    (h : st.buf = 0x59 :: 0x59 :: lo :: hi :: b4 :: rest) :
    txnStep c st .tick =
      txnFilter c { st with buf := [] } (clampDistance c (rawDistance lo hi)).toNat := by
  rw [txnStep_tick_of_buf h, if_pos ⟨rfl, rfl⟩, clampDistance_toNat, rawDistance_toNat]

theorem exec_validFrame_refines (s : State) (lo hi : Byte) :
    ∃ u, exec (.validFrame lo hi) s = .next u ∧
      (blockOf u, u.outs) =
        txnFilter s.cfg { blockOf s with buf := [] } (clampDistance s.cfg (rawDistance lo hi)).toNat :=
  ⟨_, exec_validFrame s lo hi, filterDistance_refines s.clearOutputs.flush _ (State.outs_clearOutputs s)⟩

/-- From an empty buffer the events of `SAMPLE d` are the valid frame of d's two bytes. -/
theorem txnRun_sample {c : Cfg} {st : Block} (d : Dist) (hbuf : st.buf = []) (hdepth : 5 ≤ c.fifoDepth) :
    txnRun c st ((frameBytesOf d ++ [0]).map .rxByte ++ [.tick]) =
      txnFilter c { st with buf := [] }
        (clampDistance c (rawDistance (d.extractLsb' 0 8) (d.extractLsb' 8 8))).toNat := by
  have hfits : (st.buf ++ (frameBytesOf d ++ [0])).length ≤ c.fifoDepth := by
    simpa [hbuf, frameBytesOf] using hdepth
  rw [txnRun_append, txnRun_rxBytes _ (by simp [hbuf]), List.take_of_length_le hfits, txnRun_singleton,
    txnStep_tick_of_sync (by rw [hbuf]; rfl), List.nil_append]

end Sys2Proof.Safety

namespace Sys2Proof.Proofs

open Sys2Proof Sys2Proof.Machine Sys2Proof.Safety

/-- Settles O1: the bytes by format, each word being its fields; the table word is the bytes once more. -/
theorem decodeOfEncodeIsTheEvent : Obligations.DecodeOfEncodeIsTheEvent := fun _ hi =>
  ⟨decodeBytes_encode hi, decodeTableWord_encodeWord hi, fun _ => decodeCycle_of_encodeCycle⟩

/-- Settles O2: a word's row by its control bits, which any covering row shares; a step is the refinement's fold. -/
theorem cycleWordRunsItsRow : Obligations.CycleWordRunsItsRow := by
  refine ⟨fun w => ⟨decodeCycle_eq_reset, decodeCycle_eq_idle, decodeCycle_eq_rxByte, decodeCycle_eq_tick,
    decodeCycle_eq_tickRx, decodeCycle_format w, decodeCycle_row_covers w,
    fun j hj h => .inl (row_eq_of_covers hj h)⟩, fun j => priority_eq_one_iff, fun s => ?_⟩
  obtain ⟨t, hstep, hfold, _⟩ := step_refines s
  exact ⟨t, hstep, hfold⟩

/-- Settles O4: the sync field is the two bytes the decoder compares, and what the row's mask selects. -/
theorem frameIsValidIffSyncBytes : Obligations.FrameIsValidIffSyncBytes :=
  ⟨fun _ _ b2 b3 => ⟨decodeFrame_of_sync b2 b3, decodeFrame_of_not_sync b2 b3⟩,
    fun W => ⟨fun h => decodeFrame_of_sync _ _ ((syncField_eq_iff W).1 h),
      fun h => decodeFrame_of_not_sync _ _ (mt (syncField_eq_iff W).2 h), masked_eq_iff_syncField W⟩,
    fun _ _ => rfl, fun _ _ _ _ => ⟨rfl, rfl⟩⟩

/-- Settles O6: the sum and the field are the concatenation, whose number is below 2 ^ 16. -/
theorem rawDistanceIsLittleEndian : Obligations.RawDistanceIsLittleEndian := by
  intro b0 b1 b2 b3
  have hbound := (rawDistance b2 b3).isLt
  rw [rawDistance_toNat] at hbound
  exact ⟨rawDistance_eq_sum b2 b3, rfl, (distanceField_frameWord b0 b1 b2 b3).symm, rawDistance_toNat b2 b3,
    Nat.le_of_lt_succ hbound⟩

/-- Settles O37: the run is the transaction-level run of the sample's events, which ends in the filter step the row
VALID_FRAME takes. -/
theorem sampleDecodesItsDistance : Obligations.SampleDecodesItsDistance := by
  intro s d rest hbuf hdepth hinput
  have hlength : (assemble (sampleEvents d)).length = 6 := by simp [assemble_sampleEvents, frameBytesOf]
  obtain ⟨t, os, hrun, hfold, _, hrest⟩ := runOuts_refines 6 s
  obtain ⟨u, hexec, hframe⟩ := exec_validFrame_refines s (d.extractLsb' 0 8) (d.extractLsb' 8 8)
  have hwords : wordsAhead 6 s.input = assemble (sampleEvents d) := by
    rw [hinput, ← hlength, wordsAhead_append]
  rw [hwords, flatMap_eventsOf_sample, txnRun_sample d hbuf hdepth, ← hframe] at hfold
  obtain ⟨hblock, hout⟩ := Prod.mk.inj hfold
  rw [hinput, List.drop_left' hlength] at hrest
  exact ⟨t, u, os, hrun, hexec, rawDistance_bytes d, hblock, hout, hrest⟩

/-- Settles O3: each field is a byte, or two neighbouring ones. -/
theorem frameWordPacksBytes : Obligations.FrameWordPacksBytes := fun b0 b1 b2 b3 =>
  ⟨frameWord_byte0 b0 b1 b2 b3, frameWord_byte1 b0 b1 b2 b3, frameWord_byte2 b0 b1 b2 b3,
    frameWord_byte3 b0 b1 b2 b3, syncField_frameWord b0 b1 b2 b3, distanceField_frameWord b0 b1 b2 b3⟩

/-- Settles O5: each written word is evaluated. -/
theorem writtenWordsDecode : Obligations.WrittenWordsDecode := by
  unfold Obligations.WrittenWordsDecode
  decide

/-- Settles O23: the next word and the rest are the head and the tail of the host's list. -/
theorem stepRunsTheDecodedEvent : Obligations.StepRunsTheDecodedEvent :=
  ⟨fun _ _ _ => step_of_input_cons, fun _ => step_of_input_nil⟩

end Sys2Proof.Proofs
end

section
/-!
PROOFS, family 40_input_events: RX_BYTE (R54), IDLE (R55) and TICK_RX (R56). The three control bits of a cycle word
name its event. An idle word has no event of the transaction level, so by the refinement of runs idle words in front
of a run change nothing. TICK_RX is the TICK and then the byte because receiving a byte depends on the block alone.
-/
namespace Sys2Proof

/-! ### The control bits `I[10:8]` (30_encoding R44) -/

theorem ports_of_controlBits {w : CycleWord} {c : BitVec 3} (h : w.extractLsb' 8 3 = c) :
    rstBit w = c.getLsbD 2 ∧ tickBit w = c.getLsbD 1 ∧ rxValidBit w = c.getLsbD 0 := by
  subst h
  simp [rstBit, tickBit, rxValidBit]

end Sys2Proof

namespace Sys2Proof.Machine

variable (s : State)

/-! ### The buffer after a TICK above the gate (41_frame_parser R62) -/

theorem tickEffect_buf_of_lt_length (h : 4 < s.buf.length) : (tickEffect s).buf = [] := by
  rcases tickEffect_cases s with ⟨hl, _⟩ | ⟨b0, b1, b2, b3, _, _, _, ht⟩
  · exact absurd h (Nat.not_lt.2 hl)
  · rw [ht, frameEffect_buf, State.flush_buf]

end Sys2Proof.Machine

namespace Sys2Proof.Safety

open Sys2Proof.Machine

/-! ### A byte sees the block only (40_input_events R54) -/

theorem blockOf_receive_clearOutputs (s : State) (b : Byte) :
    blockOf (s.clearOutputs.receive b) = blockOf (s.receive b) :=
  congrArg Prod.fst ((receive_refines s.clearOutputs b).trans (receive_refines s b).symm)

/-! ### Idle words in front of a run (40_input_events R55) -/

theorem eventsOf_of_idle {w : CycleWord} (h : w.extractLsb' 8 3 = 0b000) : eventsOf w = [] := by
  obtain ⟨hr, ht, hv⟩ := ports_of_controlBits h
  simp [eventsOf_eq_fields, hr, ht, hv]

theorem wordsAhead_length_add_append (ws rest : List CycleWord) (n : Nat) :
    wordsAhead (ws.length + n) (ws ++ rest) = ws ++ wordsAhead n rest := by
  induction ws with
  | nil => simp
  | cons w ws ih => simp [Nat.add_right_comm, ih]

theorem flatMap_eventsOf_idles_append {idles : List CycleWord} (h : ∀ w ∈ idles, w.extractLsb' 8 3 = 0b000)
    (ws : List CycleWord) : (idles ++ ws).flatMap eventsOf = ws.flatMap eventsOf := by
  have hidles : idles.flatMap eventsOf = [] :=
    List.flatMap_eq_nil_iff.2 fun w hw => eventsOf_of_idle (h w hw)
  rw [List.flatMap_append, hidles, List.nil_append]

/-- A run and the same run behind idle words fold the same events over the same block. -/
theorem runOuts_idles_append (s : State) {idles : List CycleWord} (n : Nat)
    (h : ∀ w ∈ idles, w.extractLsb' 8 3 = 0b000) :
    ∃ t u os, runOuts n s = .next (t, os) ∧
      runOuts (idles.length + n) { s with input := idles ++ s.input } = .next (u, os) ∧
      blockOf u = blockOf t ∧ u.cfg = t.cfg ∧ u.input = t.input := by
  obtain ⟨t, os, hrun, hfold, hcfg, hinput⟩ := runOuts_refines n s
  obtain ⟨u, os', hrun', hfold', hcfg', hinput'⟩ :=
    runOuts_refines (idles.length + n) { s with input := idles ++ s.input }
  rw [wordsAhead_length_add_append, flatMap_eventsOf_idles_append h] at hfold'
  obtain ⟨hblock, rfl⟩ := Prod.mk.inj (hfold'.trans hfold.symm)
  rw [List.drop_length_add_append] at hinput'
  exact ⟨t, u, os', hrun, hrun', hblock, hcfg'.trans hcfg.symm, hinput'.trans hinput.symm⟩

end Sys2Proof.Safety

namespace Sys2Proof.Proofs

open Sys2Proof Sys2Proof.Machine Sys2Proof.Safety

/-- Settles O8: IDLE clears the ports only, and idle words add no event to the fold a run is. -/
theorem idleCyclesChangeNoOutcome : Obligations.IdleCyclesChangeNoOutcome := by
  refine ⟨fun w hw => ?_, fun s => ⟨_, exec_idle s, blockOf_clearOutputs s, State.outs_clearOutputs s, rfl, rfl⟩,
    fun s _ n => runOuts_idles_append s n⟩
  obtain ⟨hr, ht, hv⟩ := ports_of_controlBits hw
  exact decodeCycle_eq_idle hr ht hv

/-- Settles O14: the byte is received on the state the TICK leaves, whose buffer is the old one below the gate and
empty above it. -/
theorem tickRxIsTickThenByte : Obligations.TickRxIsTickThenByte := by
  refine ⟨fun w hw => ?_, fun b s => ?_⟩
  · obtain ⟨hr, ht, hv⟩ := ports_of_controlBits hw
    exact decodeCycle_eq_tickRx hr ht hv
  · refine ⟨_, _, _, exec_tick s, exec_rxByte _ b, exec_tickRx s b, (blockOf_receive_clearOutputs _ b).symm,
      State.outs_receive _ b, by simp, by simp, by simp, fun hl => ?_, fun hl hdepth => ?_⟩
    · rw [tickEffect_of_length_le s.clearOutputs hl]
      exact ⟨by simp, State.receive_buf _ b⟩
    · have hbuf := tickEffect_buf_of_lt_length s.clearOutputs hl
      simp [State.receive_buf, hbuf, hdepth]

/-- Settles O9: the byte is received on the cleared ports. -/
theorem rxByteAppendsUnlessFull : Obligations.RxByteAppendsUnlessFull := by
  refine ⟨fun w hw => ?_, fun b s => ?_⟩
  · obtain ⟨hr, ht, hv⟩ := ports_of_controlBits hw
    exact decodeCycle_eq_rxByte hr ht hv
  · exact ⟨_, exec_rxByte s b, State.receive_buf _ b, by simp, by simp, by simp, by simp, by simp⟩

end Sys2Proof.Proofs
end

section
/-!
PROOFS, family 41_frame_parser: the TICK (R58). Below the gate it is nothing (R60); above it, it is the row its front
frame decodes to (R59, R61, R62), and a frame with a wrong sync byte is no value (R63). The distance a frame carries is
clamped (R65), so along a run without RESET each accepted distance lies within the ceiling and at least EPSILON away
from the one before it.
-/
namespace Sys2Proof.Machine

/-! ### The clamp picks the smaller value (41_frame_parser R65) -/

theorem clampDistance_of_le {c : Cfg} {raw : Dist} (h : raw.toNat ≤ c.maxDistance.toNat) :
    clampDistance c raw = raw := by
  refine BitVec.eq_of_toNat_eq ?_
  rw [clampDistance_toNat, Nat.min_eq_left h]

theorem clampDistance_of_ge {c : Cfg} {raw : Dist} (h : c.maxDistance.toNat ≤ raw.toNat) :
    clampDistance c raw = c.maxDistance := by
  refine BitVec.eq_of_toNat_eq ?_
  rw [clampDistance_toNat, Nat.min_eq_right h]

/-! ### A TICK above the gate is a frame row (41_frame_parser R59, R61, R62) -/

variable (s : State)

/-- The row a frame decodes to has the effect of the captured frame on the flushed buffer. -/
theorem exec_decodeFrame (b0 b1 b2 b3 : Byte) :
    exec (decodeFrame b0 b1 b2 b3) s = .next (frameEffect b0 b1 b2 b3 s.clearOutputs.flush) := by
  rcases frameEffect_cases s.clearOutputs.flush b0 b1 b2 b3 with ⟨hs, hf⟩ | ⟨hs, hf⟩ <;> rw [hf, decodeFrame, hs]
  · exact exec_invalidFrame s b0 b1 b2 b3
  · exact exec_validFrame s b2 b3

theorem exec_tick_of_buf {b0 b1 b2 b3 b4 : Byte} {rest : List Byte}
    (h : s.buf = b0 :: b1 :: b2 :: b3 :: b4 :: rest) : exec .tick s = exec (decodeFrame b0 b1 b2 b3) s := by
  rw [exec_decodeFrame, exec_tick, tickEffect_of_buf s.clearOutputs h]

end Sys2Proof.Machine

namespace Sys2Proof.Safety

open Sys2Proof.Machine

/-! ### Accepted distances along a run without RESET (42_distance_filter R68, R71) -/

/-- The distances `ds` can be accepted one after the other from `prev`: each is at least EPSILON away from the one
before it, and none exceeds MAX_DISTANCE. -/
structure Acceptable (c : Cfg) (prev : Dist) (ds : List Dist) : Prop where
  farApart : List.IsChain (fun a b : Dist => c.epsilon.toNat ≤ ((b.toNat : Int) - a.toNat).natAbs) (prev :: ds)
  clamped : ∀ d ∈ ds, d.toNat ≤ c.maxDistance.toNat

theorem Acceptable.nil (c : Cfg) (prev : Dist) : Acceptable c prev [] := ⟨.singleton prev, by simp⟩

theorem Acceptable.cons {c : Cfg} {prev d : Dist} {ds : List Dist} (hfar : c.epsilon.toNat ≤ delta d prev)
    (hmax : d ≤ c.maxDistance) (h : Acceptable c d ds) : Acceptable c prev (d :: ds) where
  farApart := .cons_cons (delta_eq_natAbs d prev ▸ hfar) h.farApart
  clamped := List.forall_mem_cons.2 ⟨BitVec.le_def.1 hmax, h.clamped⟩

/-- A quiet step adds no distance and keeps `prev`; an accept adds one and moves `prev` to it. -/
theorem acceptable_step_append {s t : State} {os : List OutEvent} (hr : rstBit s.nextWord = false)
    (h : step s = .next t) (hrun : Acceptable t.cfg t.prev (acceptedOf os)) :
    Acceptable s.cfg s.prev (acceptedOf (t.outs ++ os)) := by
  rw [step_cfg h] at hrun
  rw [acceptedOf_append, acceptedOf_outs]
  rcases step_cases h with ⟨hr', _⟩ | ⟨_, hq⟩ | ⟨_, _, _, d, ha⟩
  · simp [hr] at hr'
  · simpa [hq.distValid, hq.prev] using hrun
  · rw [ha.prev] at hrun
    simpa [ha.distValid, ha.distData] using hrun.cons ha.farEnough ha.clamped

end Sys2Proof.Safety

namespace Sys2Proof.Proofs

open Sys2Proof Sys2Proof.Machine Sys2Proof.Safety

/-- Settles O33: each step without RESET extends the run's acceptable distances at the front, by induction on the
run. -/
theorem acceptedDistancesDifferByEpsilon : Obligations.AcceptedDistancesDifferByEpsilon := by
  intro n s hs
  obtain ⟨t, os, hrun, hfar, hmax⟩ :=
    runOuts_induction_of_resetFree (P := fun s os _ => Acceptable s.cfg s.prev (acceptedOf os))
      (fun s => .nil s.cfg s.prev) (fun _ _ _ _ => acceptable_step_append) n s hs
  exact ⟨t, os, hrun, hfar, hmax⟩

/-- Settles O10: the event by its control bits, the effect by the refinement of TICK. -/
theorem tickFollowsThePseudocode : Obligations.TickFollowsThePseudocode := by
  refine ⟨fun w hw => ?_, fun s => ⟨_, exec_tick s, ?_, by simp, by simp⟩⟩
  · obtain ⟨hr, ht, hv⟩ := ports_of_controlBits hw
    exact decodeCycle_eq_tick hr ht hv
  · exact tickEffect_refines s.clearOutputs (State.outs_clearOutputs s)

/-- Settles O12: TICK is the row of its front frame, and a frame's effect keeps the flushed buffer empty. -/
theorem decodingTickRunsTheFrontFrame : Obligations.DecodingTickRunsTheFrontFrame := fun s _ _ _ _ _ _ h =>
  ⟨exec_tick_of_buf s h, _, exec_tick s, tickEffect_buf_of_lt_length s.clearOutputs (by simp [h])⟩

/-- Settles O11: below the gate a TICK only clears the ports. -/
theorem tickBelowGateChangesNothing : Obligations.TickBelowGateChangesNothing := by
  intro s hl
  refine ⟨_, exec_tick s, ?_⟩
  rw [tickEffect_of_length_le s.clearOutputs hl]
  exact ⟨rfl, rfl, rfl, State.outs_clearOutputs s, rfl, rfl⟩

/-- Settles O16: the row clears the ports and flushes the buffer. -/
theorem invalidFrameConsumesTheBuffer : Obligations.InvalidFrameConsumesTheBuffer := fun b0 b1 b2 b3 s =>
  ⟨_, exec_invalidFrame s b0 b1 b2 b3, rfl, rfl, rfl, State.outs_clearOutputs s, rfl, rfl⟩

/-- Settles O13: TICK is the row of its front frame, which the sync bytes choose. -/
theorem badSyncTickYieldsNoValue : Obligations.BadSyncTickYieldsNoValue := by
  intro s b0 b1 b2 b3 b4 rest h
  rw [exec_tick_of_buf s h]
  refine ⟨fun hbad => ?_, fun hsync => ?_⟩
  · rw [decodeFrame_of_not_sync b2 b3 hbad]
    exact invalidFrameConsumesTheBuffer b0 b1 b2 b3 s
  · rw [decodeFrame_of_sync b2 b3 hsync]

/-- Settles O17: each corner case says on which side of the ceiling the raw distance lies. -/
theorem clampIsTheMinimum : Obligations.ClampIsTheMinimum := by
  refine ⟨fun c raw => ⟨clampDistance_toNat c raw, fun h => ?_, fun h => ?_, fun h => ?_, fun h => ?_⟩,
    fun c lo hi => ?_⟩
  · exact clampDistance_of_ge (Nat.le_of_eq (congrArg BitVec.toNat h.symm))
  · exact clampDistance_of_ge (h ▸ Nat.le_succ _)
  · rw [clampDistance_of_ge (h ▸ Nat.zero_le _), h]
  · exact clampDistance_of_le (h ▸ Nat.le_of_lt_succ raw.isLt)
  · rw [clampDistance_toNat, rawDistance_toNat, Nat.zero_max]

end Sys2Proof.Proofs
end

section
/-!
PROOFS, family 42_distance_filter: the filter of a valid frame (R68 to R72) and the consumer's normalized value (R73
to R77). The filter either rejects and is quiet or accepts one distance, and `delta` says which; what an accept shows
on the ports follows from the presence state it reaches. `map_value` is the affine formula put between the smaller and
the larger end of its target range.
-/
namespace Sys2Proof.Machine

/-! ### The difference (42_distance_filter R69) -/

theorem delta_self (d : Dist) : delta d d = 0 := by simp [delta]

theorem delta_zero_right (d : Dist) : delta d 0 = d.toNat := by simp [delta_eq_natAbs]

theorem delta_eq_zero_iff (d prev : Dist) : delta d prev = 0 ↔ d = prev := by
  rw [delta_eq_natAbs, ← BitVec.toNat_inj]
  omega

theorem delta_le (d prev : Dist) : delta d prev ≤ 65535 := by
  have hd := d.isLt
  have hprev := prev.isLt
  rw [delta_eq_natAbs]
  omega

/-! ### The filter rejects exactly below EPSILON (42_distance_filter R70) -/

theorem filterRejects_iff (c : Cfg) (d prev : Dist) :
    filterRejects c d prev = true ↔ delta d prev < c.epsilon.toNat := decide_eq_true_iff

theorem filterRejects_eq_false_iff (c : Cfg) (d prev : Dist) :
    filterRejects c d prev = false ↔ c.epsilon.toNat ≤ delta d prev := by
  rw [← Bool.not_eq_true, filterRejects_iff, Nat.not_lt]

variable (s : State)

theorem filterDistance_of_lt {d : Dist} (h : delta d s.prev < s.cfg.epsilon.toNat) : filterDistance d s = s :=
  if_pos ((filterRejects_iff s.cfg d s.prev).2 h)

theorem filterDistance_of_ge {d : Dist} (h : s.cfg.epsilon.toNat ≤ delta d s.prev) :
    filterDistance d s = acceptDistance d s :=
  if_neg (Bool.eq_false_iff.1 ((filterRejects_eq_false_iff s.cfg d s.prev).2 h))

/-- The presence step touches neither `prev` nor the distance ports. -/
theorem presenceStep_frame (d : Dist) :
    (presenceStep d s).prev = s.prev ∧ (presenceStep d s).distValid = s.distValid ∧
      (presenceStep d s).distData = s.distData := by
  rcases presenceStep_cases s d with ⟨_, h⟩ | ⟨_, h⟩ <;> simp only [h, and_self]

/-- An accept writes `prev` and the distance ports, whatever the ports showed before. -/
theorem acceptDistance_writes (d : Dist) :
    (acceptDistance d s).prev = d ∧ (acceptDistance d s).distValid = true ∧ (acceptDistance d s).distData = d := by
  rcases acceptDistance_cases s d with ⟨_, h⟩ | ⟨_, h⟩ <;> rw [h]
  · exact presenceStep_frame { s with prev := d, distValid := true, distData := d } d
  · exact ⟨rfl, rfl, rfl⟩

/-- A distance just filtered is too near to be accepted again: it was too near before, or it is `prev` now. -/
theorem delta_prev_filterDistance_lt {d : Dist} (h : 1 ≤ s.cfg.epsilon.toNat) :
    delta d (filterDistance d s).prev < s.cfg.epsilon.toNat := by
  rcases filterDistance_cases s d with ⟨hnear, hf⟩ | ⟨_, hf⟩ <;> rw [hf]
  · exact hnear
  · rw [(acceptDistance_writes s d).1, delta_self]
    exact h

/-! ### A TICK that finds a valid frame, and the presence bit (41_frame_parser R64, 43_presence_detector R81) -/

theorem exec_tick_of_sync {lo hi b4 : Byte} {rest : List Byte}
    (h : s.buf = 0x59 :: 0x59 :: lo :: hi :: b4 :: rest) : exec .tick s = exec (.validFrame lo hi) s := by
  rw [exec_tick_of_buf s h, decodeFrame_of_sync lo hi ⟨rfl, rfl⟩]

theorem Edge.ofBit_injective : Function.Injective Edge.ofBit := by
  unfold Function.Injective
  decide

/-! ### `map_value` (42_distance_filter R74 to R76) -/

/-- Whichever way the target range runs, the clamp is the one between its smaller and its larger end. -/
theorem clampToRange_eq_min_max (y a b : Rat) : clampToRange y a b = min (max y (min a b)) (max a b) := by
  unfold clampToRange
  split
  · rename_i h
    rw [min_eq_left h.le, max_eq_right h.le]
  · rename_i h
    rw [min_eq_right (not_lt.1 h), max_eq_left (not_lt.1 h)]

theorem min_le_clampToRange (y a b : Rat) : min a b ≤ clampToRange y a b := by
  rw [clampToRange_eq_min_max]
  exact le_min (le_max_right _ _) min_le_max

theorem clampToRange_le_max (y a b : Rat) : clampToRange y a b ≤ max a b := by
  rw [clampToRange_eq_min_max]
  exact min_le_right _ _

/-- The clamp does not act inside the range. -/
theorem clampToRange_of_mem {y a b : Rat} (hl : min a b ≤ y) (hu : y ≤ max a b) : clampToRange y a b = y := by
  rw [clampToRange_eq_min_max, max_eq_left hl, min_eq_left hu]

theorem affineMap_inmin (inmin inmax outmin outmax : Rat) : affineMap inmin inmin inmax outmin outmax = outmin := by
  simp [affineMap]

theorem affineMap_inmax {inmin inmax : Rat} (h : inmin ≠ inmax) (outmin outmax : Rat) :
    affineMap inmax inmin inmax outmin outmax = outmax := by
  rw [affineMap, mul_div_cancel_left₀ _ (sub_ne_zero.2 h.symm)]
  exact add_sub_cancel outmin outmax

theorem mapValue_of_degenerate {inmin inmax : Rat} (h : |inmin - inmax| < 1 / 10000) (x outmin outmax : Rat) :
    mapValue x inmin inmax outmin outmax = outmin :=
  if_pos (decide_eq_true h)

theorem mapValue_of_not_degenerate {inmin inmax : Rat} (h : ¬|inmin - inmax| < 1 / 10000) (x outmin outmax : Rat) :
    mapValue x inmin inmax outmin outmax = clampToRange (affineMap x inmin inmax outmin outmax) outmin outmax :=
  if_neg (mt of_decide_eq_true h)

theorem ne_of_not_degenerate {inmin inmax : Rat} (h : ¬|inmin - inmax| < 1 / 10000) : inmin ≠ inmax := by
  rintro rfl
  norm_num at h

theorem mapValue_mem (x inmin inmax outmin outmax : Rat) :
    min outmin outmax ≤ mapValue x inmin inmax outmin outmax ∧
      mapValue x inmin inmax outmin outmax ≤ max outmin outmax := by
  by_cases h : |inmin - inmax| < 1 / 10000
  · rw [mapValue_of_degenerate h]
    exact ⟨min_le_left _ _, le_max_left _ _⟩
  · rw [mapValue_of_not_degenerate h]
    exact ⟨min_le_clampToRange _ _ _, clampToRange_le_max _ _ _⟩

/-! ### The block's normalization (42_distance_filter R77) -/

theorem affineMap_normalization {m : Rat} (h : m ≠ 0) (d : Rat) : affineMap d 0 m 1 0 = (m - d) / m := by
  unfold affineMap
  field_simp
  ring

/-- A range `[0, MAX_DISTANCE]` of at least one centimetre is no degenerate one. -/
theorem not_degenerate_of_one_le {m : Rat} (h : 1 ≤ m) : ¬|0 - m| < 1 / 10000 := by
  rw [zero_sub, abs_neg, abs_of_pos (by linarith)]
  linarith

/-- For a distance in the range the affine value is already in [0, 1], so the clamp does not act. -/
theorem mapValue_normalization {m d : Rat} (hm : 1 ≤ m) (h0 : 0 ≤ d) (hd : d ≤ m) :
    mapValue d 0 m 1 0 = affineMap d 0 m 1 0 := by
  have hpos : 0 < m := by linarith
  rw [mapValue_of_not_degenerate (not_degenerate_of_one_le hm), affineMap_normalization hpos.ne']
  refine clampToRange_of_mem ?_ ?_
  · rw [min_eq_right zero_le_one]
    exact div_nonneg (sub_nonneg.2 hd) hpos.le
  · rw [max_eq_left zero_le_one, div_le_one hpos]
    exact sub_le_self m h0

end Sys2Proof.Machine

namespace Sys2Proof.Safety

open Sys2Proof.Machine

/-! ### A filtered distance is quiet or accepted (42_distance_filter R68, R71, R72) -/

theorem edgeOf_of_lt {c : Cfg} {d : Dist} (h : d.toNat < c.maxDistance.toNat) : edgeOf c d = .present :=
  if_pos (BitVec.lt_def.2 h)

theorem edgeOf_of_ge {c : Cfg} {d : Dist} (h : c.maxDistance.toNat ≤ d.toNat) : edgeOf c d = .absent :=
  if_neg fun hlt => Nat.not_lt.2 h (BitVec.lt_def.1 hlt)

theorem Quiet.outs {s t : State} (h : Quiet s t) : t.outs = [] :=
  t.outs_eq_nil_iff.2 ⟨h.distValid, h.presValid⟩

/-- Without a detector an accept keeps the presence state and emits the distance alone. -/
theorem Accepts.of_noDetector {d : Dist} {s t : State} (h : Accepts d s t) (he : s.cfg.presenceEn = false) :
    t.edge = s.edge ∧ t.outs = [.accepted d] := by
  have hp := h.noDetector he
  rcases h.presence with ⟨_, hedge⟩ | ⟨hp', _⟩
  · exact ⟨hedge, by simp [State.outs, h.distValid, h.distData, hp]⟩
  · simp [hp] at hp'

/-- An accept that reaches a bit's presence state emits the distance, and the bit exactly if the state is news. -/
theorem Accepts.outs_of_edge {d : Dist} {s t : State} (h : Accepts d s t) {p : PresBit} (he : t.edge = Edge.ofBit p) :
    t.outs = .accepted d :: if s.edge = Edge.ofBit p then [] else [.presence p] := by
  rcases h.presence with ⟨hp, hedge⟩ | ⟨hp, hedge, hne⟩
  · simp [State.outs, h.distValid, h.distData, hp, hedge.symm.trans he]
  · have hbit : t.presValue = p := Edge.ofBit_injective (hedge.symm.trans he)
    rw [he] at hne
    simp [State.outs, h.distValid, h.distData, hp, hbit, hne]

/-- The filter is quiet on a distance nearer than EPSILON and accepts any other. -/
theorem filterDistance_quiet_or_accepts {s : State} {d : Dist} (h : s.outs = []) (hmax : d ≤ s.cfg.maxDistance) :
    (delta d s.prev < s.cfg.epsilon.toNat ∧ Quiet s (filterDistance d s)) ∨
      (s.cfg.epsilon.toNat ≤ delta d s.prev ∧ Accepts d s (filterDistance d s)) := by
  rcases filterDistance_cases s d with ⟨hd, hf⟩ | ⟨hd, hf⟩ <;> rw [hf]
  · exact .inl ⟨hd, .refl h⟩
  · exact .inr ⟨hd, acceptDistance_accepts (s.outs_eq_nil_iff.1 h).2 hmax hd⟩

/-- What a valid frame leaves of a state, its clamped distance being rejected or accepted. -/
theorem exec_validFrame_cases (s : State) (lo hi : Byte) :
    ∃ t, exec (.validFrame lo hi) s = .next t ∧ t.buf = [] ∧ t.cfg = s.cfg ∧ t.input = s.input ∧
      ((delta (clampDistance s.cfg (rawDistance lo hi)) s.prev < s.cfg.epsilon.toNat ∧ Quiet s t) ∨
        (s.cfg.epsilon.toNat ≤ delta (clampDistance s.cfg (rawDistance lo hi)) s.prev ∧
          Accepts (clampDistance s.cfg (rawDistance lo hi)) s t)) := by
  refine ⟨_, exec_validFrame s lo hi, by simp, by simp, by simp, ?_⟩
  rcases filterDistance_quiet_or_accepts (s := s.clearOutputs.flush) (State.outs_clearOutputs s)
    (clampDistance_le s.cfg (rawDistance lo hi)) with ⟨hd, hq⟩ | ⟨hd, ha⟩
  · exact .inl ⟨hd, { hq with }⟩
  · exact .inr ⟨hd, { ha with }⟩

end Sys2Proof.Safety

namespace Sys2Proof.Proofs

open Sys2Proof Sys2Proof.Machine Sys2Proof.Safety

/-- Settles O15: the row is quiet below EPSILON and else accepts; an accept's presence state fixes its outputs. -/
theorem validFrameIsClampedAndFiltered : Obligations.ValidFrameIsClampedAndFiltered := by
  intro lo hi s d hd
  rw [← rawDistance_toNat, ← clampDistance_toNat] at hd
  obtain ⟨t, ht, hbuf, hcfg, hinput, hcases⟩ := exec_validFrame_cases s lo hi
  refine ⟨t, ht, hbuf, hcfg, hinput, fun _ _ hb => (exec_tick_of_sync s hb).trans ht, ?_⟩
  rw [hd, ← delta_eq_natAbs]
  rcases hcases with ⟨hnear, hq⟩ | ⟨hfar, ha⟩
  · exact ⟨fun _ => ⟨hq.prev, hq.edge, hq.outs⟩, fun hfar => absurd hnear (Nat.not_lt.2 hfar)⟩
  · refine ⟨fun hnear => absurd hnear (Nat.not_lt.2 hfar), fun _ => ?_⟩
    rw [ha.prev]
    refine ⟨rfl, ha.of_noDetector, fun he => ⟨fun hlt => ?_, fun hge => ?_⟩⟩
    · have hedge := (ha.detector he).trans (edgeOf_of_lt hlt)
      exact ⟨hedge, ha.outs_of_edge (p := 1) hedge⟩
    · have hedge := (ha.detector he).trans (edgeOf_of_ge hge)
      exact ⟨hedge, ha.outs_of_edge (p := 0) hedge⟩

/-- Settles O18: `delta` is the absolute value of the integer difference. -/
theorem deltaIsTheExactDifference : Obligations.DeltaIsTheExactDifference := by
  refine ⟨fun d prev => ⟨fun h => ?_, fun h => ?_, delta_le d prev, delta_self d⟩, by decide⟩
  · rw [delta_eq_natAbs]; omega
  · rw [delta_eq_natAbs]; omega

/-- Settles O19: each corner case is the strict comparison of `delta` with that EPSILON; a repeated distance is too
near once it was filtered. -/
theorem rejectsExactlyBelowEpsilon : Obligations.RejectsExactlyBelowEpsilon := by
  refine ⟨fun d s => filterDistance_of_lt s, fun d s h => ?_, fun c d prev h => ?_, fun c d prev h => ?_,
    fun c d prev h => ?_, fun d s h0 hd => ?_, fun lo hi lo' hi' s t u heps hsame ht hcfg hprev => ?_⟩
  · rw [filterDistance_of_ge s h]
    exact acceptDistance_writes s d
  · rw [filterRejects_eq_false_iff, h]
    exact Nat.zero_le _
  · rw [filterRejects_iff, h, ← delta_eq_zero_iff]
    exact Nat.lt_one_iff
  · rw [filterRejects_eq_false_iff, h]
    exact (delta_le d prev).ge_iff_eq
  · exact filterDistance_of_lt s (by rwa [h0, delta_zero_right])
  · have hnear := delta_prev_filterDistance_lt s.clearOutputs.flush
      (d := clampDistance s.cfg (rawDistance lo hi)) heps
    obtain rfl := Host.Outcome.next.inj ((exec_validFrame s lo hi).symm.trans ht)
    have hcfg' : u.cfg = s.cfg := by simpa using hcfg
    refine ⟨_, exec_validFrame u lo' hi', ?_⟩
    rw [filterDistance_of_lt u.clearOutputs.flush (by simpa [hcfg', hprev, ← hsame] using hnear)]
    exact ⟨State.outs_clearOutputs u, rfl, rfl⟩

/-- Settles O38: the end points are sent to end points, which lie in the target range, where the clamp does not act. -/
theorem mapValueSendsEndPointsToEndPoints : Obligations.MapValueSendsEndPointsToEndPoints := by
  intro x inmin inmax outmin outmax h
  refine ⟨mapValue_of_not_degenerate h x outmin outmax, ?_, ?_⟩ <;> rw [mapValue_of_not_degenerate h]
  · rw [affineMap_inmin]
    exact clampToRange_of_mem (min_le_left _ _) (le_max_left _ _)
  · rw [affineMap_inmax (ne_of_not_degenerate h)]
    exact clampToRange_of_mem (min_le_right _ _) (le_max_right _ _)

/-- Settles O39: the range bounds hold with and without the guard, and an empty target range leaves one value. -/
theorem mapValueStaysInItsRange : Obligations.MapValueStaysInItsRange := by
  intro x inmin inmax outmin outmax
  obtain ⟨hmin, hmax⟩ := mapValue_mem x inmin inmax outmin outmax
  obtain ⟨hge, hle⟩ := mapValue_mem x inmin inmax outmin outmin
  rw [min_self] at hge
  rw [max_self] at hle
  exact ⟨hmin, hmax, hle.antisymm hge, fun h => mapValue_of_degenerate h x outmin outmax⟩

/-- Settles O40: for MAX_DISTANCE >= 1 the affine value needs no clamp; MAX_DISTANCE = 0 meets the guard. -/
theorem normalizationIsNearOneFarZero : Obligations.NormalizationIsNearOneFarZero := by
  intro c d hd
  obtain ⟨hmin, hmax⟩ := mapValue_mem d.toNat 0 c.maxDistance.toNat 1 0
  rw [min_eq_right zero_le_one] at hmin
  rw [max_eq_left zero_le_one] at hmax
  refine ⟨fun h => if_pos h, rfl, fun hm => ?_, fun hm => ?_, hmin, hmax⟩
  · have hm' : (1 : Rat) ≤ c.maxDistance.toNat := by exact_mod_cast hm
    have hnoClamp : normalizedValue c d = affineMap d.toNat 0 c.maxDistance.toNat 1 0 :=
      mapValue_normalization hm' (Nat.cast_nonneg _) (by exact_mod_cast hd)
    exact ⟨hnoClamp.trans (affineMap_normalization (by linarith) _), hnoClamp.symm⟩
  · exact mapValue_of_degenerate (by simp [hm]) _ _ _

end Sys2Proof.Proofs
end

section
/-!
PROOFS, family 43_presence_detector: the presence bit (R79), the presence step (R80, R82), and a block built without
the detector (R86). The last is proved on the transaction-level machine, which every run refines: leaving the detector
out of the configuration commutes with each stage, up to the presence state and the Presence events.
-/
namespace Sys2Proof.Machine

/-! ### The presence bit (43_presence_detector R79) -/

theorem isThere_eq_one_iff (c : Cfg) (d : Dist) : isThere c d = 1 ↔ d.toNat < c.maxDistance.toNat := by
  rw [isThere_eq_ite]
  split <;> simp [*]

theorem isThere_eq_zero_iff (c : Cfg) (d : Dist) : isThere c d = 0 ↔ c.maxDistance.toNat ≤ d.toNat := by
  rw [isThere_eq_ite, ← Nat.not_lt]
  split <;> simp [*]

/-- The clamp keeps the side of the ceiling a raw distance lies on. -/
theorem isThere_clampDistance (c : Cfg) (raw : Dist) : isThere c (clampDistance c raw) = isThere c raw := by
  rw [isThere_eq_ite, isThere_eq_ite, clampDistance_toNat]
  simp only [min_lt_iff, Nat.lt_irrefl, or_false]

/-- Among the distances up to the ceiling, the bit is 0 at the ceiling alone. -/
theorem isThere_eq_zero_iff_of_le {c : Cfg} {d : Dist} (h : d ≤ c.maxDistance) :
    isThere c d = 0 ↔ d = c.maxDistance := by
  rw [isThere_eq_zero_iff, ← BitVec.le_def]
  exact ⟨BitVec.le_antisymm h, fun heq => heq ▸ BitVec.le_refl _⟩

/-! ### The presence step (43_presence_detector R80, R82) -/

variable (s : State)

theorem presenceStep_of_transition {d : Dist}
    (h : isTransition s.edge (Edge.ofBit (isThere s.cfg d)) = true) :
    presenceStep d s =
      { s with edge := Edge.ofBit (isThere s.cfg d), presValid := true, presValue := isThere s.cfg d } :=
  if_pos h

theorem presenceStep_of_edge_eq {d : Dist} (h : s.edge = Edge.ofBit (isThere s.cfg d)) : presenceStep d s = s := by
  refine if_neg ?_
  rw [isTransition_ofBit, decide_eq_true_iff]
  exact not_not_intro h

end Sys2Proof.Machine

namespace Sys2Proof.Safety

open Sys2Proof.Machine

/-! ### The detector left out of the transaction-level machine (43_presence_detector R86) -/

/-- The configuration with the detector not built. -/
def noDetectorCfg (c : Cfg) : Cfg := { c with presenceEn := false }

/-- The output events with the Presence events deleted. -/
def dropPresence (os : List OutEvent) : List OutEvent := (acceptedOf os).map .accepted

/-- A block and its outputs as a block without the detector has them: the unread presence state is still `e`, and
no Presence event is emitted. -/
def withoutDetector (e : Edge) (r : Block × List OutEvent) : Block × List OutEvent :=
  ({ r.1 with edge := e }, dropPresence r.2)

@[simp] theorem dropPresence_append (xs ys : List OutEvent) :
    dropPresence (xs ++ ys) = dropPresence xs ++ dropPresence ys := by
  simp [dropPresence]

theorem presencesOf_dropPresence (os : List OutEvent) : presencesOf (dropPresence os) = [] := by
  unfold dropPresence
  induction acceptedOf os with
  | nil => rfl
  | cons d ds ih => exact ih

theorem acceptedOf_txnPresence (c : Cfg) (e : Edge) (d : Nat) : acceptedOf (txnPresence c e d).2 = [] := by
  unfold txnPresence
  exact (apply_ite (fun r : Edge × List OutEvent => acceptedOf r.2) _ _ _).trans (ite_self [])

theorem txnFilter_noDetectorCfg (c : Cfg) (st : Block) (e : Edge) (d : Nat) :
    txnFilter (noDetectorCfg c) { st with edge := e } d = withoutDetector e (txnFilter c st d) := by
  by_cases hd : ((d : Int) - st.prev.toNat).natAbs < c.epsilon.toNat
  · simp [txnFilter, noDetectorCfg, withoutDetector, dropPresence, acceptedOf, hd]
  · cases he : c.presenceEn <;>
      simp [txnFilter, noDetectorCfg, withoutDetector, dropPresence, acceptedOf, acceptedOf_txnPresence, hd, he]

theorem txnStep_noDetectorCfg (c : Cfg) (st : Block) (e : Edge) (ev : Event) :
    txnStep (noDetectorCfg c) { st with edge := e } ev = withoutDetector e (txnStep c st ev) := by
  cases ev with
  | reset => rfl
  | idle => rfl
  | rxByte b =>
    simp only [txnStep]
    rw [apply_ite (withoutDetector e)]
    rfl
  | tick =>
    simp only [txnStep]
    split
    · rw [apply_ite (withoutDetector e), ← txnFilter_noDetectorCfg]
      rfl
    · rfl

/-- The run without the detector is the run with the Presence events deleted, one event at a time. -/
theorem txnRun_noDetectorCfg (c : Cfg) (st : Block) (e : Edge) (evs : List Event) :
    txnRun (noDetectorCfg c) { st with edge := e } evs = withoutDetector e (txnRun c st evs) := by
  induction evs generalizing st with
  | nil => rfl
  | cons ev evs ih =>
    have hrest := ih (txnStep c st ev).1
    simp only [txnRun, txnStep_noDetectorCfg]
    simp only [withoutDetector, dropPresence_append] at hrest ⊢
    rw [hrest]

end Sys2Proof.Safety

namespace Sys2Proof.Proofs

open Sys2Proof Sys2Proof.Machine Sys2Proof.Safety

/-- Settles O35: both runs refine the transaction-level machine on the same events, where leaving the detector out
commutes with every event. -/
theorem disabledDetectorOnlyDropsPresence : Obligations.DisabledDetectorOnlyDropsPresence := by
  intro n s s' _ hcfg hbuf hprev hinput
  obtain ⟨t, os, hrun, hfold, _, _⟩ := runOuts_refines n s
  obtain ⟨t', os', hrun', hfold', _, _⟩ := runOuts_refines n s'
  have hblock : blockOf s' = { blockOf s with edge := s'.edge } := by simp [blockOf, hbuf, hprev]
  rw [hcfg, hblock, hinput] at hfold'
  have hsame : (blockOf t', os') = withoutDetector s'.edge (blockOf t, os) := by
    rw [hfold', hfold]
    exact txnRun_noDetectorCfg s.cfg (blockOf s) s'.edge _
  obtain ⟨hblock', rfl⟩ := Prod.mk.inj hsame
  exact ⟨t, t', os, _, hrun, hrun', rfl, presencesOf_dropPresence os, congrArg Block.buf hblock',
    congrArg Block.prev hblock', congrArg Block.edge hblock'⟩

/-- Settles O21: on either side of the ceiling the step's bit is `p`, whose presence state is `new`. -/
theorem presenceFiresOnTransitionsOnly : Obligations.PresenceFiresOnTransitionsOnly := by
  intro d s new p hbelow habove
  have hbit : isThere s.cfg d = p ∧ Edge.ofBit p = new := by
    rcases Nat.lt_or_ge d.toNat s.cfg.maxDistance.toNat with h | h
    · obtain ⟨rfl, rfl⟩ := hbelow h
      exact ⟨(isThere_eq_one_iff s.cfg d).2 h, rfl⟩
    · obtain ⟨rfl, rfl⟩ := habove h
      exact ⟨(isThere_eq_zero_iff s.cfg d).2 h, rfl⟩
  obtain ⟨rfl, rfl⟩ := hbit
  exact ⟨fun h => presenceStep_of_transition s ((isTransition_iff _ _).2 h), presenceStep_of_edge_eq s⟩

/-- Settles O20: the bit compares with the ceiling, and the clamp keeps the side of the ceiling. -/
theorem isThereIsStrictlyBelowTheCeiling : Obligations.IsThereIsStrictlyBelowTheCeiling := by
  intro c d
  refine ⟨isThere_eq_one_iff c d, isThere_eq_zero_iff c d, ?_, fun h => ?_, fun h => ?_⟩
  · rintro raw rfl
    refine ⟨isThere_eq_zero_iff_of_le (clampDistance_le c raw), ?_⟩
    rw [isThere_clampDistance, isThere_eq_zero_iff]
  · rw [isThere_eq_zero_iff, h]
    exact Nat.zero_le _
  · rw [isThere_eq_one_iff, ← h]
    exact Nat.lt_succ_self _

end Sys2Proof.Proofs
end

section
/-!
PROOFS, family 70_reset_and_hazards: RESET puts the initial state (R100). A second RESET finds nothing left to clear,
and the Unknown presence state it leaves makes the next accept a transition.
-/
namespace Sys2Proof.Safety

open Sys2Proof.Machine

/-- A second RESET finds the block it would leave. -/
theorem blockOf_resetEffect_resetEffect (s : State) :
    blockOf (resetEffect (resetEffect s).clearOutputs) = blockOf (resetEffect s) := by
  cases he : s.cfg.presenceEn <;> simp [blockOf, he]

theorem edgeOf_ne_unknown (c : Cfg) (d : Dist) : edgeOf c d ≠ .unknown :=
  ofBit_isThere c d ▸ Edge.ofBit_ne_unknown (isThere c d)

/-- 43_presence_detector R80: an accept in the state Unknown is a transition, so it emits Presence. -/
theorem Accepts.presValid_of_unknown {d : Dist} {s t : State} (h : Accepts d s t)
    (he : s.cfg.presenceEn = true) (hu : s.edge = .unknown) : t.presValid = true := by
  rcases h.presence with ⟨_, hsame⟩ | ⟨hp, _⟩
  · have hunknown : edgeOf s.cfg d = .unknown := (h.detector he).symm.trans (hsame.trans hu)
    exact absurd hunknown (edgeOf_ne_unknown s.cfg d)
  · exact hp

/-- A valid frame run in the state Unknown emits Presence whenever it accepts. -/
theorem exec_validFrame_of_unknown {s : State} (he : s.cfg.presenceEn = true) (hu : s.edge = .unknown)
    (lo hi : Byte) :
    ∃ t, exec (.validFrame lo hi) s = .next t ∧ (t.distValid = true → t.presValid = true) := by
  obtain ⟨t, ht, _, _, _, hcases⟩ := exec_validFrame_cases s lo hi
  refine ⟨t, ht, fun hd => ?_⟩
  rcases hcases with ⟨_, hq⟩ | ⟨_, ha⟩
  · simp [hq.distValid] at hd
  · exact ha.presValid_of_unknown he hu

end Sys2Proof.Safety

namespace Sys2Proof.Proofs

open Sys2Proof Sys2Proof.Machine Sys2Proof.Safety

/-- Settles O7: RESET's writes stand in `resetEffect`, a second RESET finds the same block, and with the detector built
the first accept starts from Unknown. -/
theorem resetPutsTheInitialState : Obligations.ResetPutsTheInitialState := by
  refine ⟨fun _ => decodeCycle_eq_reset, fun s => ⟨_, exec_reset s, rfl, rfl, rfl, rfl, rfl, ?_, rfl, rfl, ?_, ?_⟩⟩
  · rw [State.outs_resetEffect, State.outs_clearOutputs]
  · refine ⟨_, exec_reset _, blockOf_resetEffect_resetEffect s.clearOutputs, ?_⟩
    simp only [State.outs_resetEffect, State.outs_clearOutputs]
  · exact fun he => exec_validFrame_of_unknown he (if_pos he)

end Sys2Proof.Proofs
end
